-- ==== Sys2Proof/Word.lean ====
section
/-! DEFINITION. The word types of HTB (00_scope R6, R8): the 32-bit register word, symbols, counts, bit strings. -/

namespace Sys2Proof

/-- A 32-bit register word (10_state section 2; 20_memory R42). -/
abbrev Word := BitVec 32

/-- A symbol, SYM_W = 8 bits, unsigned (00_scope R6). -/
abbrev Sym := BitVec 8

/-- A count, a node frequency or the total, CNT_W = 32 bits, unsigned (00_scope R6). -/
abbrev Count := BitVec 32

/-- A byte offset into the 4 KiB register space (20_memory R40). -/
abbrev Offset := BitVec 12

/-- A bit string, first stream bit first; `false` is '0' and `true` is '1' (00_scope R8). -/
abbrev Bits := List Bool

/-- A node index (00_scope R6, IDX_W = 9). Every index a run reaches is below NODE_MAX = 511 (log entry 8). -/
abbrev NodeIdx := Nat

end Sys2Proof
end

