-- ==== Sys2Proof/Syntax.lean ====
section
/-! DEFINITION. The commands of HTB: one constructor per row of the opcode map (30_encoding R63), with the operand its form takes from ARG
(30_encoding R61). -/

namespace Sys2Proof

/-- A command of HTB, the analogue of an instruction (30_encoding R63). -/
inductive Instr where
  /-- NOP, 45_control R170. -/
  | nop
  /-- MAP_CLEAR, 40_frequency_map R100. -/
  | mapClear
  /-- MAP_COUNT sym, 40_frequency_map R101. -/
  | mapCount (sym : Sym)
  /-- PQ_CLEAR, 41_priority_list R118. -/
  | pqClear
  /-- PQ_LOAD_LEAVES, 41_priority_list R117. -/
  | pqLoadLeaves
  /-- PQ_REMOVE_FIRST, 41_priority_list R119. -/
  | pqRemoveFirst
  /-- PQ_REMOVE_AT idx, 41_priority_list R120. -/
  | pqRemoveAt (idx : BitVec 9)
  /-- PQ_MERGE_STEP, 42_tree_builder R130. -/
  | pqMergeStep
  /-- PQ_EXTRACT_ROOT, 42_tree_builder R131. -/
  | pqExtractRoot
  /-- BUILD_TREE, 42_tree_builder R132. -/
  | buildTree
  /-- BUILD_CODES, 43_code_table R140. -/
  | buildCodes
  /-- ENCODE sym, 44_codec R150. -/
  | encode (sym : Sym)
  /-- DEC_BIT b, 44_codec R153. -/
  | decBit (b : Bool)
  /-- DEC_END, 44_codec R154. -/
  | decEnd
  /-- DEC_CLEAR, 44_codec R155. -/
  | decClear
  /-- SOFT_RESET, 45_control R171. -/
  | softReset
  deriving DecidableEq, Repr

end Sys2Proof
end

