-- ==== Sys2Proof/Machine/Operands.lean ====
section
/-! DEFINITION. The four operand forms (30_encoding R61, R62): the operand field of ARG, its must-be-zero bits, and the ARG word that
carries an operand. -/

namespace Sys2Proof.Machine

/-- The operand forms of 30_encoding R61. -/
inductive Form where
  /-- No operand; ARG is ignored. -/
  | none
  /-- An 8-bit symbol in ARG[7:0]. -/
  | sym
  /-- A 9-bit list index in ARG[8:0]. -/
  | idx
  /-- One stream bit in ARG[0]. -/
  | bit
  deriving DecidableEq, Repr

/-- The must-be-zero bits of ARG in each form are all zero: ARG[31:8], ARG[31:9], ARG[31:1]; the form NONE has none (30_encoding R61,
R66). -/
def Form.legal : Form → Word → Bool
  | .none, _ => true
  | .sym, arg => arg.extractLsb' 8 24 == 0#24
  | .idx, arg => arg.extractLsb' 9 23 == 0#23
  | .bit, arg => arg.extractLsb' 1 31 == 0#31

/-- sym := ARG[7:0] (30_encoding R61). -/
def argSym (arg : Word) : Sym := arg.extractLsb' 0 8

/-- idx := ARG[8:0] (30_encoding R61). -/
def argIdx (arg : Word) : BitVec 9 := arg.extractLsb' 0 9

/-- b := ARG[0] (30_encoding R61). -/
def argBit (arg : Word) : Bool := arg.getLsbD 0

/-- The ARG word that carries a symbol: zext_32(sym) (30_encoding R62). -/
def symArg (s : Sym) : Word := s.setWidth 32

/-- The ARG word that carries a list index: zext_32(idx) (30_encoding R62). -/
def idxArg (i : BitVec 9) : Word := i.setWidth 32

/-- The ARG word that carries a stream bit (30_encoding R62). -/
def bitArg (b : Bool) : Word := (BitVec.ofBool b).setWidth 32

/-- The operand form of each command (30_encoding R63). -/
def formOf : Instr → Form
  | .nop => .none
  | .mapClear => .none
  | .mapCount _ => .sym
  | .pqClear => .none
  | .pqLoadLeaves => .none
  | .pqRemoveFirst => .none
  | .pqRemoveAt _ => .idx
  | .pqMergeStep => .none
  | .pqExtractRoot => .none
  | .buildTree => .none
  | .buildCodes => .none
  | .encode _ => .sym
  | .decBit _ => .bit
  | .decEnd => .none
  | .decClear => .none
  | .softReset => .none

/-- A row of the opcode map: the opcode, the operand form, and the command its operand makes (30_encoding R63). -/
structure OpcodeRow where
  opc : BitVec 8
  form : Form
  build : Word → Instr

/-- The opcode map (30_encoding R63). -/
def opcodeMap : List OpcodeRow :=
  [ ⟨0x00#8, .none, fun _ => .nop⟩,
    ⟨0x01#8, .none, fun _ => .mapClear⟩,
    ⟨0x02#8, .sym, fun arg => .mapCount (argSym arg)⟩,
    ⟨0x10#8, .none, fun _ => .pqClear⟩,
    ⟨0x11#8, .none, fun _ => .pqLoadLeaves⟩,
    ⟨0x12#8, .none, fun _ => .pqRemoveFirst⟩,
    ⟨0x13#8, .idx, fun arg => .pqRemoveAt (argIdx arg)⟩,
    ⟨0x20#8, .none, fun _ => .pqMergeStep⟩,
    ⟨0x21#8, .none, fun _ => .pqExtractRoot⟩,
    ⟨0x22#8, .none, fun _ => .buildTree⟩,
    ⟨0x30#8, .none, fun _ => .buildCodes⟩,
    ⟨0x40#8, .sym, fun arg => .encode (argSym arg)⟩,
    ⟨0x41#8, .bit, fun arg => .decBit (argBit arg)⟩,
    ⟨0x42#8, .none, fun _ => .decEnd⟩,
    ⟨0x43#8, .none, fun _ => .decClear⟩,
    ⟨0xFF#8, .none, fun _ => .softReset⟩ ]

/-- The row of an opcode, `none` for the 240 reserved values (30_encoding R64). -/
def opcodeRow (opc : BitVec 8) : Option OpcodeRow := opcodeMap.find? (·.opc == opc)

end Sys2Proof.Machine
end

