-- ==== Sys2Proof/WellFormed.lean ====
section
/-! DEFINITION. Which command words are well formed (30_encoding R60 to R66): the must-be-zero bits of CMD, the opcode, the must-be-zero
bits of ARG. Every operand of an `Instr` is as wide as its field, so an `Instr` itself is well formed by its type. -/

namespace Sys2Proof

/-- The two words a command is issued with: the CMD word and the latched ARG (30_encoding R60, R61). -/
structure CommandWords where
  cmd : Word
  arg : Word
  deriving DecidableEq, Repr

namespace CommandWords

/-- The opcode field OPC, CMD[7:0] (30_encoding R60). -/
def opc (w : CommandWords) : BitVec 8 := w.cmd.extractLsb' 0 8

/-- The must-be-zero field, CMD[31:8] (30_encoding R60). -/
def mbz (w : CommandWords) : BitVec 24 := w.cmd.extractLsb' 8 24

/-- CMD[31:8] is zero (30_encoding R65). -/
def mbzClear (w : CommandWords) : Bool := w.mbz == 0#24

/-- OPC is in the opcode map (30_encoding R64). -/
def opcodeDefined (w : CommandWords) : Bool := (Machine.opcodeRow w.opc).isSome

/-- ARG has no must-be-zero bit of the opcode's operand form set (30_encoding R66). -/
def operandLegal (w : CommandWords) : Bool :=
  match Machine.opcodeRow w.opc with
  | some r => r.form.legal w.arg
  | none => true

/-- All three checks. -/
def wellFormed (w : CommandWords) : Bool := w.mbzClear && w.opcodeDefined && w.operandLegal

end CommandWords
end Sys2Proof
end

