-- ==== Sys2Proof/Decode.lean ====
section
/-! DEFINITION. The decoder, total on every pair of words, rejecting by name (30_encoding R63 to R67), and the encoder. -/

namespace Sys2Proof

/-- Why a pair of words is no command, in the order of the checks (30_encoding R67). -/
inductive DecodeError where
  /-- CMD[31:8] is not zero (30_encoding R65). -/
  | cmdMustBeZero
  /-- OPC is one of the 240 reserved values (30_encoding R64). -/
  | reservedOpcode
  /-- A must-be-zero bit of ARG is set for a SYM, IDX or BIT command (30_encoding R66). -/
  | illegalOperand
  deriving DecidableEq, Repr

/-- The row of the opcode map (30_encoding R63), every other opcode being reserved (R64), and then the operand's must-be-zero bits
(R66). -/
def decodeOpcode (opc : BitVec 8) (arg : Word) : Except DecodeError Instr :=
  match Machine.opcodeRow opc with
  | none => .error .reservedOpcode
  | some r => if r.form.legal arg then .ok (r.build arg) else .error .illegalOperand

/-- Decoding a latched CMD word with its latched ARG: first CMD[31:8], then the opcode, then the operand (30_encoding R65, R64, R66, in the
order of R67). The check of the fatal state comes before this one and is `Machine.guarded`'s. -/
def decode (w : CommandWords) : Except DecodeError Instr :=
  if w.mbz = 0#24 then decodeOpcode w.opc w.arg else .error .cmdMustBeZero

/-- The opcode of a command (30_encoding R63). -/
def opcodeOf : Instr → BitVec 8
  | .nop => 0x00#8
  | .mapClear => 0x01#8
  | .mapCount _ => 0x02#8
  | .pqClear => 0x10#8
  | .pqLoadLeaves => 0x11#8
  | .pqRemoveFirst => 0x12#8
  | .pqRemoveAt _ => 0x13#8
  | .pqMergeStep => 0x20#8
  | .pqExtractRoot => 0x21#8
  | .buildTree => 0x22#8
  | .buildCodes => 0x30#8
  | .encode _ => 0x40#8
  | .decBit _ => 0x41#8
  | .decEnd => 0x42#8
  | .decClear => 0x43#8
  | .softReset => 0xFF#8

/-- The ARG word a command is issued with; zero for the form NONE, which ignores it (30_encoding R61, R62). -/
def operandWord : Instr → Word
  | .mapCount s => Machine.symArg s
  | .pqRemoveAt i => Machine.idxArg i
  | .encode s => Machine.symArg s
  | .decBit b => Machine.bitArg b
  | .nop => 0#32
  | .mapClear => 0#32
  | .pqClear => 0#32
  | .pqLoadLeaves => 0#32
  | .pqRemoveFirst => 0#32
  | .pqMergeStep => 0#32
  | .pqExtractRoot => 0#32
  | .buildTree => 0#32
  | .buildCodes => 0#32
  | .decEnd => 0#32
  | .decClear => 0#32
  | .softReset => 0#32

/-- The words of a command: OPC in CMD[7:0] with CMD[31:8] zero, and the operand in ARG (30_encoding R60, R61). -/
def encode (i : Instr) : CommandWords := ⟨(opcodeOf i).setWidth 32, operandWord i⟩

/-- The command words in an instruction's bits as the opcode table numbers them: bits 31..0 are the CMD word and bits 63..32 the ARG word;
bits at and above `nbits` are zero (log entry 12). -/
def tableWords (nbits w : Nat) : CommandWords :=
  ⟨BitVec.ofNat 32 (w % 2 ^ nbits), BitVec.ofNat 32 (w % 2 ^ nbits / 2 ^ 32)⟩

/-- The instruction the decoder reads from an instruction's bits, `none` where it refuses. -/
def decodeTableWord (nbits w : Nat) : Option Instr :=
  match decode (tableWords nbits w) with
  | .ok i => some i
  | .error _ => none

end Sys2Proof
end

