-- ==== Sys2Proof/Machine/Containers.lean ====
section
/-! DEFINITION. The records held by HTB's containers (10_state section 3): map entries, arena nodes, the code table. -/

namespace Sys2Proof.Machine

/-- One entry of MAP: a symbol and its count (10_state R32). -/
structure MapEntry where
  sym : Sym
  cnt : Count
  deriving DecidableEq, Repr, Inhabited

/-- One arena record (10_state R34). -/
inductive Node where
  /-- A leaf: its symbol and its frequency. -/
  | leaf (sym : Sym) (freq : Count)
  /-- An internal node: its frequency, its left child and its right child. -/
  | internal (freq : Count) (left right : NodeIdx)
  deriving DecidableEq, Repr, Inhabited

/-- The frequency of a record, the key it is ordered by in LIST (10_state R29, R34). -/
def Node.freq : Node → Count
  | .leaf _ f => f
  | .internal f _ _ => f

/-- The code table CT: one entry per symbol value; `some c` is VALID = 1, LEN = the length of `c`, CODE = `c`, and `none` is
VALID = 0 (10_state R37). -/
abbrev CodeTable := Vector (Option Bits) 256

/-- The table with every entry VALID = 0 (10_state R37, 43_code_table R140). -/
def CodeTable.empty : CodeTable := Vector.replicate 256 none

/-- CT[s] (10_state R37). -/
def CodeTable.entry (ct : CodeTable) (s : Sym) : Option Bits := ct[s.toNat]'s.isLt

/-- CT[s] <- (VALID 1, LEN the length of c, CODE c) (43_code_table R141, R142). -/
def CodeTable.record (ct : CodeTable) (s : Sym) (c : Bits) : CodeTable := ct.set s.toNat (some c) s.isLt

/-- The number of entries with VALID = 1, what CT_COUNT reads (10_state R25). -/
def CodeTable.validCount (ct : CodeTable) : Nat := ct.toList.countP (·.isSome)

end Sys2Proof.Machine
end

