-- ==== Sys2Proof/Config.lean ====
section
/-! DEFINITION. HTB's parameters (00_scope R6), its two constant registers, and the values the spec leaves open (no body: nothing can be
proved of their values). -/

namespace Sys2Proof.Config

/-- SYM_W: the width of a symbol (00_scope R6). -/
def symW : Nat := 8
/-- NSYM_MAX: the capacity of the frequency map (00_scope R6). -/
def nsymMax : Nat := 256
/-- CNT_W: the width of a count (00_scope R6). -/
def cntW : Nat := 32
/-- NODE_MAX: the capacity of the arena (00_scope R6). -/
def nodeMax : Nat := 511
/-- IDX_W: the width of an index (00_scope R6). -/
def idxW : Nat := 9
/-- CODE_MAX: the greatest code length in bits (00_scope R6). -/
def codeMax : Nat := 255
/-- CODE_WORDS: the number of 32-bit words that hold one code (00_scope R6). -/
def codeWords : Nat := 8
/-- The version of the register interface (10_state R12). -/
def version : Nat := 1

/-- The constant of the register ID (10_state R11). -/
def idValue : Word := 0x48544231#32
/-- The constant of the register PARAMS (10_state R12). -/
def paramsValue : Word := 0x01FF2008#32

/-- FREE VALUE (70_reset R212, U1): what the n-th read of an undefined-while-busy register returns. Log entry 3. -/
opaque freeWord : Nat → Word

/-- FREE VALUE (70_reset R201, U12): the arena record at an index not below NODE_COUNT, which the spec leaves unspecified. No run reads one
(the list, the children and ROOT hold allocated indices only). Log entry 4. -/
opaque staleNode : NodeIdx → Machine.Node

/-- FREE VALUE (20_memory R40, U14): HTB_BASE, the address of the register space in its system. Log entry 14. -/
opaque htbBase : Nat

end Sys2Proof.Config
end

