-- ==== Sys2Proof/Machine/BusTypes.lean ====
section
/-! DEFINITION. What passes between the host and HTB: the names of the registers (20_memory R41), bus accesses and their answers (20_memory
R42), the operations of a host program (30_encoding R68, R69), and whose turn a step is (20_memory R47). -/

namespace Sys2Proof.Machine

/-- The registers of the register map, in the map's order (20_memory R41). -/
inductive Reg where
  | id | params | cmd | arg | status | errCode | resSym | resLen | resNode
  | mapSize | total | pqSize | nodeCount | root | ctCount | candLen
  | mapIdx | mapEntSym | mapEntCnt
  | pqIdx | pqEnt | pqEntKey
  | nodeIdx | nodeInfo | nodeFreq | nodeKids
  | ctSym | ctInfo
  | ctCode (k : Fin 8)
  | resCode (k : Fin 8)
  | candBits (k : Fin 8)
  deriving DecidableEq, Repr

/-- The width of a bus access (20_memory R42). -/
inductive Width where
  | byte | half | word
  deriving DecidableEq, Repr

/-- One host access: BusRead or BusWrite (00_scope R8), of any width at any offset, so that the ones 20_memory R42 refuses can be made too.
Of a narrow write's value only the low bits mean anything. -/
inductive Access where
  | read (w : Width) (off : Offset)
  | write (w : Width) (off : Offset) (v : Word)
  deriving DecidableEq, Repr

/-- The answer of the bus to one access. -/
inductive Reply where
  /-- A read's 32-bit word (20_memory R46). -/
  | data (v : Word)
  /-- A write was taken, whether or not it had an effect (20_memory R44, R45). -/
  | written
  /-- The bus's error response: the access was refused (20_memory R42, 70_reset R200). -/
  | busError
  deriving DecidableEq, Repr

/-- One operation of a host program. Each makes one bus access a step (log entry 16). -/
inductive HostOp where
  /-- One access (WR and RD of 30_encoding R68). -/
  | access (a : Access)
  /-- WAIT: RD STATUS until STATUS.BUSY = 0 (30_encoding R68). -/
  | wait
  /-- RD STATUS and, when RES_VALID = 1, RD RES_SYM (30_encoding R69, DECODE_SEQ). -/
  | readSymIfValid
  /-- RD RES_LEN and then RD RES_CODE0 .. RES_CODE((RES_LEN-1) div 32) (30_encoding R69, ENCODE_SEQ). -/
  | readCode
  /-- RD ERR_CODE and, when it is not 0, leave out the next `skip` operations, the rest of the expansion (30_encoding R69, last
  sentence). -/
  | stopOnError (skip : Nat)
  deriving DecidableEq, Repr

/-- Whose turn a step is: the two kinds of atomic steps of 20_memory R47 and the two edges of the reset input of 70_reset R200. -/
inductive Turn where
  /-- The host makes its next access. -/
  | host
  /-- The engine completes the pending command. -/
  | engine
  /-- The reset input is asserted. -/
  | assertReset
  /-- The reset input is deasserted. -/
  | releaseReset
  deriving DecidableEq, Repr

end Sys2Proof.Machine
end

