-- ==== Sys2Proof/Machine/State.lean ====
section
/-! DEFINITION. The state of HTB as plain data, holding all 10_state gives the machine, the reasons a step could stop, and the state after
reset (70_reset R201). -/

namespace Sys2Proof.Machine

/-- The error codes a command completes with (60_exceptions R180). Codes 11..255 are never written, so they have no name. -/
inductive ErrCode where
  /-- 0: the command succeeded. -/
  | none
  /-- 1: tree construction asked of an empty map (42_tree_builder R132). -/
  | emptyInput
  /-- 2: the symbol has no code (44_codec R150). -/
  | lookupMiss
  /-- 3: the stream ends inside a candidate (44_codec R154). -/
  | decodeExhaustion
  /-- 4: a list command on a list too short for it; fatal (60_exceptions R186). -/
  | underflowViolation
  /-- 5: MAP_COUNT with TOTAL = 2^32 - 1 (40_frequency_map R101). -/
  | countOverflow
  /-- 6: a reserved opcode or CMD[31:8] not zero (30_encoding R64, R65). -/
  | illegalOpcode
  /-- 7: a must-be-zero bit of ARG is set (30_encoding R66). -/
  | illegalOperand
  /-- 8: PQ_REMOVE_AT beyond the end of a list that is not empty (41_priority_list R120). -/
  | indexRange
  /-- 9: PQ_EXTRACT_ROOT with more than one entry (42_tree_builder R131). -/
  | sequence
  /-- 10: a command other than SOFT_RESET in the fatal state (60_exceptions R187). -/
  | fatalLocked
  deriving DecidableEq, Repr

/-- Nothing stops HTB: every error ends one command with an error code and the machine goes on (60_exceptions R182), so no fault has a
name. -/
inductive Fault where
  deriving DecidableEq, Repr

/-- Why a step has no meaning. -/
inductive Refusal where
  /-- Raised by an arm of `exec` whose instruction has no meaning yet; safe, since the model stops there. No arm raises it. -/
  | notModelled (mnemonic : String)
  deriving DecidableEq, Repr

/-- The state of HTB (10_state), and after it the model's own fields. -/
structure State where
  /-- ARG, the operand of the next command (R14). -/
  arg : Word
  /-- MAP_IDX (R27). -/
  mapIdx : BitVec 9
  /-- PQ_IDX (R27). -/
  pqIdx : BitVec 9
  /-- NODE_IDX (R27). -/
  nodeIdx : BitVec 9
  /-- CT_SYM (R27). -/
  ctSym : Sym
  /-- STATUS.ERR (R15). -/
  err : Bool
  /-- STATUS.OVERRUN (R15). -/
  overrun : Bool
  /-- STATUS.RES_VALID (R15). -/
  resValid : Bool
  /-- ERR_CODE (R17). -/
  errCode : ErrCode
  /-- RES_SYM (R18). -/
  resSym : Sym
  /-- RES_LEN (R19). -/
  resLen : BitVec 8
  /-- RES_CODE0 .. RES_CODE7 as one word of 256 bits, RES_CODE(k) in bits 32k+31..32k (R20). -/
  resCode : BitVec 256
  /-- RES_NODE (R21). -/
  resNode : BitVec 9
  /-- MAP, in insertion order (R32). -/
  map : List MapEntry
  /-- TOTAL (R22, R32). -/
  total : Count
  /-- LIST, the priority-ordered list of node indices (R33). -/
  list : List NodeIdx
  /-- NODE[0..NODE_COUNT), the arena; its length is NODE_COUNT (R34). -/
  nodes : List Node
  /-- ROOT: absent or an arena index (R24, R36). -/
  root : Option NodeIdx
  /-- CT, the code table (R37). -/
  ct : CodeTable
  /-- CAND, the decoder's candidate (R38). -/
  cand : Bits
  /-- PEND, read as STATUS.BUSY (R39). -/
  pend : Bool
  /-- PEND_CMD, the latched CMD word (R39). -/
  pendCmd : Word
  /-- PEND_ARG, the latched ARG (R39). -/
  pendArg : Word
  /-- FATAL, read as STATUS.FATAL (R39). -/
  fatal : Bool
  /-- The level of the reset input: true while it is asserted (70_reset R200; log entry 6). -/
  resetIn : Bool
  /-- The model's own: the host program still to be run (log entries 1, 16). -/
  host : List HostOp
  /-- The model's own: whose turn the next steps are (20_memory R47; log entries 1, 2). -/
  sched : List Turn
  /-- The model's own: what the bus has answered, oldest first (70_reset R220; log entry 1). -/
  replies : List Reply
  /-- The model's own: how many free values busy reads have drawn (70_reset R212; log entry 3). -/
  draws : Nat
  deriving DecidableEq, Repr

/-- The machine right after reset (70_reset R201): every value is the spec's. The model's own fields are empty and 0 (DESIGN CHOICE, log
entry 17). -/
def State.reset : State where
  arg := 0
  mapIdx := 0
  pqIdx := 0
  nodeIdx := 0
  ctSym := 0
  err := false
  overrun := false
  resValid := false
  errCode := .none
  resSym := 0
  resLen := 0
  resCode := 0
  resNode := 0
  map := []
  total := 0
  list := []
  nodes := []
  root := none
  ct := CodeTable.empty
  cand := []
  pend := false
  pendCmd := 0
  pendArg := 0
  fatal := false
  resetIn := false
  host := []
  sched := []
  replies := []
  draws := 0

end Sys2Proof.Machine
end

