-- ==== Sys2Proof/Machine/Flags.lean ====
section
/-! DEFINITION. The error numbers and the STATUS word: how its bits are composed from the state (10_state R15), and what a host write clears
(10_state R16). -/

namespace Sys2Proof.Machine

/-- The number of an error code in ERR_CODE.CODE (60_exceptions R180). -/
def ErrCode.number : ErrCode → BitVec 8
  | .none => 0#8
  | .emptyInput => 1#8
  | .lookupMiss => 2#8
  | .decodeExhaustion => 3#8
  | .underflowViolation => 4#8
  | .countOverflow => 5#8
  | .illegalOpcode => 6#8
  | .illegalOperand => 7#8
  | .indexRange => 8#8
  | .sequence => 9#8
  | .fatalLocked => 10#8

/-- UNDERFLOW_VIOLATION is the one code that makes the engine fatal (60_exceptions R182, R186). -/
def ErrCode.isFatal (e : ErrCode) : Bool := e == .underflowViolation

/-- A flag at a bit of a word. -/
def bitAt (b : Bool) (i : Nat) : Word := (BitVec.ofBool b).setWidth 32 <<< i

/-- The STATUS word: BUSY, ERR, FATAL, OVERRUN, ROOT_VALID, RES_VALID in bits 0 to 5, zeros above (10_state R15). -/
def statusWord (s : State) : Word :=
  bitAt s.pend 0 ||| bitAt s.err 1 ||| bitAt s.fatal 2 ||| bitAt s.overrun 3 ||| bitAt s.root.isSome 4 ||| bitAt s.resValid 5

/-- A host write of v to STATUS: v[1] clears ERR, v[3] clears OVERRUN, every other bit is ignored (10_state R16). -/
def State.clearSticky (s : State) (v : Word) : State :=
  { s with err := s.err && !v.getLsbD 1, overrun := s.overrun && !v.getLsbD 3 }

end Sys2Proof.Machine
end

