-- ==== Sys2Proof/Machine/Ops.lean ====
section
/-! DEFINITION. The operations the commands share: the two ways a command completes (60_exceptions R182, R184; HTB's analogue of taking an
exception), the check of the fatal state (60_exceptions R187), the list and arena primitives (41_priority_list R110 to R116), and the packing
of a code into words (10_state R20). HTB has no return from an exception (60_exceptions R190). -/

namespace Sys2Proof.Machine

/-- What a meaning answers. -/
abbrev Result := Host.Outcome State Fault Refusal

/-! ## Completion -/

/-- Completion without `raise`: ERR_CODE <- 0, STATUS.ERR unchanged (60_exceptions R184). -/
def State.succeeded (s : State) : State := { s with errCode := .none }

/-- Completion with `raise e`: ERR_CODE <- e, STATUS.ERR <- 1, and FATAL <- 1 when e is UNDERFLOW_VIOLATION (60_exceptions R182). -/
def State.raised (s : State) (e : ErrCode) : State :=
  { s with errCode := e, err := true, fatal := s.fatal || e.isFatal }

/-- The first check of every command but SOFT_RESET: in the fatal state it completes with FATAL_LOCKED and nothing else changes (30_encoding
R67; 60_exceptions R185, R187). -/
def guarded (s : State) (body : Result) : Result :=
  if s.fatal then .next (s.raised .fatalLocked) else body

/-! ## The arena -/

/-- NODE_COUNT, the number of allocated records (10_state R34). -/
def State.nodeCount (s : State) : Nat := s.nodes.length

/-- NODE[n]; at an index not below NODE_COUNT the record is unspecified (70_reset R201; log entry 4). -/
def State.node (s : State) (n : NodeIdx) : Node :=
  match s.nodes[n]? with
  | some r => r
  | none => Config.staleNode n

/-- NODE[n].freq, the ordering key of an entry of LIST (10_state R29). -/
def State.key (s : State) (n : NodeIdx) : Count := (s.node n).freq

/-- The write common to ALLOC_LEAF and ALLOC_INTERNAL: NODE[NODE_COUNT] <- r; NODE_COUNT <- NODE_COUNT + 1 (41_priority_list R115, R116).
The index it returns is the NODE_COUNT before it. -/
def State.alloc (s : State) (r : Node) : State := { s with nodes := s.nodes ++ [r] }

/-- ALLOC_LEAF(sym, f) (41_priority_list R115). -/
def State.allocLeaf (s : State) (sym : Sym) (f : Count) : State := s.alloc (.leaf sym f)

/-- ALLOC_INTERNAL(l, r): the new record's freq is the sum of its children's (41_priority_list R116). -/
def State.allocInternal (s : State) (l r : NodeIdx) : State := s.alloc (.internal (s.key l + s.key r) l r)

/-! ## The list -/

/-- L_SIZE() (41_priority_list R110). -/
def State.lSize (s : State) : Nat := s.list.length

/-- L_GET(i), `none` where its precondition fails (41_priority_list R111). -/
def State.lGet (s : State) (i : Nat) : Option NodeIdx := s.list[i]?

/-- The list with n placed immediately before the first entry whose key is strictly greater, at the end if there is none (41_priority_list
R112; the FIFO reading of 90_conflicts C1). -/
def insertByKey (key : NodeIdx → Count) (n : NodeIdx) : List NodeIdx → List NodeIdx
  | [] => [n]
  | m :: rest => if key n < key m then n :: m :: rest else m :: insertByKey key n rest

/-- L_INSERT(n) (41_priority_list R112). -/
def State.lInsert (s : State) (n : NodeIdx) : State := { s with list := insertByKey s.key n s.list }

/-- L_REMOVE_AT(i), the removal: the other entries keep their order (41_priority_list R113). The entry it returns is `lGet i`. -/
def State.lRemoveAt (s : State) (i : Nat) : State := { s with list := s.list.eraseIdx i }

/-- L_REMOVE_FIRST() is L_REMOVE_AT(0) (41_priority_list R114). -/
def State.lRemoveFirst (s : State) : State := s.lRemoveAt 0

/-! ## Updates the commands share -/

/-- LIST <- empty; NODE_COUNT <- 0; ROOT <- absent (41_priority_list R117, R118; 42_tree_builder R132). -/
def State.clearTree (s : State) : State := { s with list := [], nodes := [], root := none }

/-- RES_NODE <- n, nine bits (10_state R21). -/
def State.returnNode (s : State) (n : NodeIdx) : State := { s with resNode := BitVec.ofNat 9 n }

/-- ROOT <- n (42_tree_builder R131). -/
def State.holdRoot (s : State) (n : NodeIdx) : State := { s with root := some n }

/-! ## Codes as words -/

/-- A bit string in 256 bits: bit c_i at position i, zeros above (10_state R20). -/
def packBits (c : Bits) : BitVec 256 := (BitVec.ofBoolListLE c).setWidth 256

/-- Word k of 256 bits: bits 32k+31..32k (10_state R20). -/
def wordOf (v : BitVec 256) (k : Fin 8) : Word := v.extractLsb' (32 * k.val) 32

end Sys2Proof.Machine
end

