-- ==== Sys2Proof/Machine/CodeTable.lean ====
section
/-! DEFINITION. The CodeTableBuilder command (43_code_table): BUILD_CODES. -/

namespace Sys2Proof.Machine

/-- VISIT(n, path): depth first, '0' to the left and '1' to the right, recording the path at each leaf (43_code_table R142). The fuel bounds
the depth; every child's index is below its parent's (10_state R34), so a fuel of NODE_COUNT is never used up (log entry 9). -/
def visit (s : State) : Nat → NodeIdx → Bits → CodeTable → CodeTable
  | 0, _, _, ct => ct
  | fuel + 1, n, path, ct =>
    match s.node n with
    | .leaf sym _ => ct.record sym path
    | .internal _ left right => visit s fuel right (path ++ [true]) (visit s fuel left (path ++ [false]) ct)

/-- SINGLE_LEAF: the fixed one-bit code "0" (43_code_table R141). -/
def singleLeafCode : Bits := [false]

/-- The table BUILD_CODES builds, from empty: no root, a root that is a leaf, a root that is an internal node (43_code_table R140). -/
def State.codesOfTree (s : State) : CodeTable :=
  match s.root with
  | none => CodeTable.empty
  | some n =>
    match s.node n with
    | .leaf sym _ => CodeTable.empty.record sym singleLeafCode
    | .internal _ _ _ => visit s s.nodeCount n [] CodeTable.empty

/-- BUILD_CODES: the table is rebuilt and the candidate cleared (43_code_table R140). -/
def execBuildCodes (s : State) : Result :=
  guarded s (.next { s with ct := s.codesOfTree, cand := [] }.succeeded)

end Sys2Proof.Machine
end

