-- ==== Sys2Proof/Machine/Codec.lean ====
section
/-! DEFINITION. The Codec commands (44_codec): ENCODE, DEC_BIT, DEC_END, DEC_CLEAR. -/

namespace Sys2Proof.Machine

/-- ENCODE sym (44_codec R150). -/
def execEncode (sym : Sym) (s : State) : Result :=
  guarded s
    (match s.ct.entry sym with
    | none => .next (s.raised .lookupMiss)
    | some c => .next { s with resLen := BitVec.ofNat 8 c.length, resCode := packBits c }.succeeded)

/-- MATCH(c): the symbol whose valid code is c bit for bit, `none` if there is none (44_codec R152). At most one qualifies in a state a run
reaches (43_code_table R143; log entry 10). -/
def matchCode (ct : CodeTable) (c : Bits) : Option Sym :=
  (ct.toList.findIdx? (· == some c)).map (BitVec.ofNat 8)

/-- DEC_BIT b (44_codec R153). -/
def execDecBit (b : Bool) (s : State) : Result :=
  guarded s
    (match matchCode s.ct (s.cand ++ [b]) with
    | some sym => .next { s with resSym := sym, resValid := true, cand := [] }.succeeded
    | none => .next { s with resValid := false, cand := s.cand ++ [b] }.succeeded)

/-- DEC_END: the candidate is left unchanged, on success and on error (44_codec R154). -/
def execDecEnd (s : State) : Result :=
  guarded s
    (if s.cand = [] then .next s.succeeded else .next (s.raised .decodeExhaustion))

/-- DEC_CLEAR (44_codec R155). -/
def execDecClear (s : State) : Result :=
  guarded s (.next { s with cand := [], resValid := false }.succeeded)

end Sys2Proof.Machine
end

