-- ==== Sys2Proof/Machine/Control.lean ====
section
/-! DEFINITION. The control commands (45_control): NOP and SOFT_RESET. -/

namespace Sys2Proof.Machine

/-- NOP (45_control R170). -/
def execNop (s : State) : Result :=
  guarded s (.next s.succeeded)

/-- What SOFT_RESET writes: the reset values of 70_reset R201, but ARG and the four index registers keep theirs (45_control R171). PEND_CMD and
PEND_ARG take the reset value too, as R201's last sentence says (DEDUCED, log entry 7); BUSY falls at the completion, as for every command. -/
def State.softReset (s : State) : State :=
  { s with
    map := [], total := 0#32
    list := [], nodes := [], root := none
    ct := CodeTable.empty
    cand := []
    resSym := 0#8, resLen := 0#8, resCode := 0#256, resNode := 0#9
    err := false, overrun := false, resValid := false
    fatal := false
    pendCmd := 0#32, pendArg := 0#32 }

/-- SOFT_RESET, the one command that runs in the fatal state too (45_control R171; 60_exceptions R187). -/
def execSoftReset (s : State) : Result := .next s.softReset.succeeded

end Sys2Proof.Machine
end

