-- ==== Sys2Proof/Machine/FrequencyMap.lean ====
section
/-! DEFINITION. The FrequencyMap commands (40_frequency_map): MAP_CLEAR and MAP_COUNT. -/

namespace Sys2Proof.Machine

/-- MAP_CLEAR (40_frequency_map R100). -/
def execMapClear (s : State) : Result :=
  guarded s (.next { s with map := [], total := 0#32 }.succeeded)

/-- The map after one occurrence of a symbol: its entry's count goes up by one, or a fresh entry with count 1 is appended (40_frequency_map
R101). -/
def countSymbol (sym : Sym) : List MapEntry → List MapEntry
  | [] => [⟨sym, 1#32⟩]
  | e :: rest => if e.sym = sym then ⟨e.sym, e.cnt + 1#32⟩ :: rest else e :: countSymbol sym rest

/-- MAP_COUNT sym (40_frequency_map R101). -/
def execMapCount (sym : Sym) (s : State) : Result :=
  guarded s
    (if s.total = 0xFFFFFFFF#32 then .next (s.raised .countOverflow)
    else .next { s with map := countSymbol sym s.map, total := s.total + 1#32 }.succeeded)

end Sys2Proof.Machine
end

