-- ==== Sys2Proof/Machine/PriorityList.lean ====
section
/-! DEFINITION. The PriorityOrderedList commands (41_priority_list section 2): PQ_CLEAR, PQ_LOAD_LEAVES, PQ_REMOVE_FIRST, PQ_REMOVE_AT. -/

namespace Sys2Proof.Machine

/-- PQ_CLEAR (41_priority_list R118). -/
def execPqClear (s : State) : Result :=
  guarded s (.next s.clearTree.succeeded)

/-- One iteration of the load: n := ALLOC_LEAF(sym, cnt); L_INSERT(n) (41_priority_list R117). -/
def State.loadLeaf (s : State) (e : MapEntry) : State := (s.allocLeaf e.sym e.cnt).lInsert s.nodeCount

/-- The body of PQ_LOAD_LEAVES: a fresh list and an empty arena, then one leaf per MAP entry in MAP's order (41_priority_list R117). -/
def State.loadLeaves (s : State) : State := s.map.foldl State.loadLeaf s.clearTree

/-- PQ_LOAD_LEAVES (41_priority_list R117). -/
def execPqLoadLeaves (s : State) : Result :=
  guarded s (.next s.loadLeaves.succeeded)

/-- PQ_REMOVE_FIRST (41_priority_list R119). -/
def execPqRemoveFirst (s : State) : Result :=
  guarded s
    (match s.lGet 0 with
    | none => .next (s.raised .underflowViolation)
    | some n => .next (s.lRemoveFirst.returnNode n).succeeded)

/-- PQ_REMOVE_AT idx: the empty list is checked before the index (41_priority_list R120). -/
def execPqRemoveAt (idx : BitVec 9) (s : State) : Result :=
  guarded s
    (if s.lSize = 0 then .next (s.raised .underflowViolation)
    else
      match s.lGet idx.toNat with
      | none => .next (s.raised .indexRange)
      | some n => .next ((s.lRemoveAt idx.toNat).returnNode n).succeeded)

end Sys2Proof.Machine
end

