-- ==== Sys2Proof/Machine/TreeBuilder.lean ====
section
/-! DEFINITION. The HuffmanTree construction commands (42_tree_builder): PQ_MERGE_STEP, PQ_EXTRACT_ROOT, BUILD_TREE. -/

namespace Sys2Proof.Machine

/-- The body of PQ_MERGE_STEP after its check: the first entry removed becomes the left child, the second the right child, and the new
internal node is inserted (42_tree_builder R130). On a list of fewer than two entries, which the check excludes, nothing changes. -/
def State.mergeStep (s : State) : State :=
  match s.list with
  | l :: r :: _ =>
    let t := s.lRemoveFirst.lRemoveFirst.allocInternal l r
    (t.lInsert s.nodeCount).returnNode s.nodeCount
  | _ => s

/-- PQ_MERGE_STEP (42_tree_builder R130). -/
def execPqMergeStep (s : State) : Result :=
  guarded s
    (if s.lSize < 2 then .next (s.raised .underflowViolation)
    else .next s.mergeStep.succeeded)

/-- The body of PQ_EXTRACT_ROOT after its checks (42_tree_builder R131). On an empty list, which the checks exclude, nothing changes. -/
def State.extractRoot (s : State) : State :=
  match s.lGet 0 with
  | some n => ((s.lRemoveAt 0).holdRoot n).returnNode n
  | none => s

/-- PQ_EXTRACT_ROOT: the empty list is checked before the list of several entries (42_tree_builder R131; 60_exceptions R185). -/
def execPqExtractRoot (s : State) : Result :=
  guarded s
    (if s.lSize = 0 then .next (s.raised .underflowViolation)
    else if 1 < s.lSize then .next (s.raised .sequence)
    else .next s.extractRoot.succeeded)

/-- While the list holds more than one entry, merge (42_tree_builder R132). Each merge shortens the list by one, so a fuel of its length is
never used up (42_tree_builder R132, 70_reset R219). -/
def mergeWhile : Nat → State → State
  | 0, s => s
  | fuel + 1, s => if 1 < s.lSize then mergeWhile fuel s.mergeStep else s

/-- The body of BUILD_TREE on a map that is not empty: load, merge, extract (42_tree_builder R132). -/
def State.buildTree (s : State) : State := (mergeWhile s.map.length s.loadLeaves).extractRoot

/-- BUILD_TREE: an empty map empties the list, the arena and ROOT and then reports EMPTY_INPUT (42_tree_builder R132; 60_exceptions R182;
90_conflicts C2). -/
def execBuildTree (s : State) : Result :=
  guarded s
    (if s.map = [] then .next (s.clearTree.raised .emptyInput)
    else .next s.buildTree.succeeded)

end Sys2Proof.Machine
end

