-- ==== Sys2Proof/Machine/Dispatch.lean ====
section
/-! DEFINITION. The meaning of each command (30_encoding R63): one arm per constructor of Instr, each one direct call. -/

namespace Sys2Proof.Machine

-- The whole effect of a command on the state, but for PEND, which the completion clears (70_reset R211).
def exec (i : Instr) (s : State) : Host.Outcome State Fault Refusal :=
  match i with
  | .nop => Sys2Proof.Machine.execNop s
  | .mapClear => Sys2Proof.Machine.execMapClear s
  | .mapCount sym => Sys2Proof.Machine.execMapCount sym s
  | .pqClear => Sys2Proof.Machine.execPqClear s
  | .pqLoadLeaves => Sys2Proof.Machine.execPqLoadLeaves s
  | .pqRemoveFirst => Sys2Proof.Machine.execPqRemoveFirst s
  | .pqRemoveAt idx => Sys2Proof.Machine.execPqRemoveAt idx s
  | .pqMergeStep => Sys2Proof.Machine.execPqMergeStep s
  | .pqExtractRoot => Sys2Proof.Machine.execPqExtractRoot s
  | .buildTree => Sys2Proof.Machine.execBuildTree s
  | .buildCodes => Sys2Proof.Machine.execBuildCodes s
  | .encode sym => Sys2Proof.Machine.execEncode sym s
  | .decBit b => Sys2Proof.Machine.execDecBit b s
  | .decEnd => Sys2Proof.Machine.execDecEnd s
  | .decClear => Sys2Proof.Machine.execDecClear s
  | .softReset => Sys2Proof.Machine.execSoftReset s

end Sys2Proof.Machine
end

