-- ==== Sys2Proof/Machine/Bus.lean ====
section
/-! DEFINITION. The register space (20_memory): the register map, what each register reads as (10_state R11 to R31), what a write does, and
which accesses are refused. -/

namespace Sys2Proof.Machine

/-! ## The register map -/

/-- The byte offset of a register (20_memory R41). -/
def Reg.offset : Reg → Offset
  | .id => 0x000#12
  | .params => 0x004#12
  | .cmd => 0x008#12
  | .arg => 0x00C#12
  | .status => 0x010#12
  | .errCode => 0x014#12
  | .resSym => 0x018#12
  | .resLen => 0x01C#12
  | .resNode => 0x020#12
  | .mapSize => 0x024#12
  | .total => 0x028#12
  | .pqSize => 0x02C#12
  | .nodeCount => 0x030#12
  | .root => 0x034#12
  | .ctCount => 0x038#12
  | .candLen => 0x03C#12
  | .mapIdx => 0x040#12
  | .mapEntSym => 0x044#12
  | .mapEntCnt => 0x048#12
  | .pqIdx => 0x04C#12
  | .pqEnt => 0x050#12
  | .pqEntKey => 0x054#12
  | .nodeIdx => 0x058#12
  | .nodeInfo => 0x05C#12
  | .nodeFreq => 0x060#12
  | .nodeKids => 0x064#12
  | .ctSym => 0x068#12
  | .ctInfo => 0x06C#12
  | .ctCode k => 0x070#12 + BitVec.ofNat 12 (4 * k.val)
  | .resCode k => 0x090#12 + BitVec.ofNat 12 (4 * k.val)
  | .candBits k => 0x0B0#12 + BitVec.ofNat 12 (4 * k.val)

/-- The registers below 0x070 (20_memory R41). -/
def Reg.single : List Reg :=
  [.id, .params, .cmd, .arg, .status, .errCode, .resSym, .resLen, .resNode, .mapSize, .total, .pqSize, .nodeCount, .root, .ctCount,
    .candLen, .mapIdx, .mapEntSym, .mapEntCnt, .pqIdx, .pqEnt, .pqEntKey, .nodeIdx, .nodeInfo, .nodeFreq, .nodeKids, .ctSym, .ctInfo]

/-- The three banks of eight registers (20_memory R41). -/
def Reg.banked : List Reg :=
  (List.finRange 8).map Reg.ctCode ++ ((List.finRange 8).map Reg.resCode ++ (List.finRange 8).map Reg.candBits)

/-- Every register of the map (20_memory R41). -/
def Reg.all : List Reg := Reg.single ++ Reg.banked

/-- The register at an offset, `none` where the map is reserved (20_memory R41, R44). -/
def Reg.ofOffset (off : Offset) : Option Reg := Reg.all.find? (·.offset = off)

/-- The address of an offset in the system the block stands in (20_memory R40; log entry 14). -/
def busAddress (off : Offset) : Nat := Config.htbBase + off.toNat

/-- The offset of a system address, `none` outside the 4 KiB register space (20_memory R40). -/
def offsetOfAddress (a : Nat) : Option Offset :=
  if Config.htbBase ≤ a ∧ a < Config.htbBase + 0x1000 then some (BitVec.ofNat 12 (a - Config.htbBase)) else none

/-- Byte lane b of a word: bits 8b+7..8b, lane 0 at the lowest byte address (20_memory R43). -/
def byteLane (w : Word) (b : Fin 4) : BitVec 8 := w.extractLsb' (8 * b.val) 8

/-! ## Reading a register -/

/-- A field of bits 8..0. -/
def nineBits (n : Nat) : Word := (BitVec.ofNat 9 n).setWidth 32

/-- Bit 31: PRESENT or VALID (10_state R24, R28 to R31). -/
def bit31 : Word := 0x80000000#32

/-- ROOT (10_state R24). -/
def State.rootWord (s : State) : Word :=
  match s.root with
  | some n => bit31 ||| nineBits n
  | none => 0#32

/-- MAP_ENT_SYM (10_state R28). -/
def State.mapEntSym (s : State) : Word :=
  match s.map[s.mapIdx.toNat]? with
  | some e => bit31 ||| e.sym.setWidth 32
  | none => 0#32

/-- MAP_ENT_CNT (10_state R28). -/
def State.mapEntCnt (s : State) : Word :=
  match s.map[s.mapIdx.toNat]? with
  | some e => e.cnt
  | none => 0#32

/-- PQ_ENT (10_state R29). -/
def State.pqEnt (s : State) : Word :=
  match s.lGet s.pqIdx.toNat with
  | some n => bit31 ||| nineBits n
  | none => 0#32

/-- PQ_ENT_KEY (10_state R29). -/
def State.pqEntKey (s : State) : Word :=
  match s.lGet s.pqIdx.toNat with
  | some n => s.key n
  | none => 0#32

/-- NODE_INFO: PRESENT, IS_LEAF, and a leaf's symbol (10_state R30). -/
def State.nodeInfo (s : State) : Word :=
  match s.nodes[s.nodeIdx.toNat]? with
  | some (.leaf sym _) => 0xC0000000#32 ||| sym.setWidth 32
  | some (.internal _ _ _) => bit31
  | none => 0#32

/-- NODE_FREQ (10_state R30). -/
def State.nodeFreq (s : State) : Word :=
  match s.nodes[s.nodeIdx.toNat]? with
  | some r => r.freq
  | none => 0#32

/-- NODE_KIDS: the left child in bits 8..0, the right child in bits 24..16 (10_state R30). -/
def State.nodeKids (s : State) : Word :=
  match s.nodes[s.nodeIdx.toNat]? with
  | some (.internal _ left right) => nineBits left ||| (nineBits right <<< 16)
  | some (.leaf _ _) => 0#32
  | none => 0#32

/-- CT_INFO (10_state R31). -/
def State.ctInfo (s : State) : Word :=
  match s.ct.entry s.ctSym with
  | some c => bit31 ||| (BitVec.ofNat 8 c.length).setWidth 32
  | none => 0#32

/-- CT_CODE0 .. CT_CODE7 as 256 bits (10_state R31). -/
def State.ctCode (s : State) : BitVec 256 :=
  match s.ct.entry s.ctSym with
  | some c => packBits c
  | none => 0#256

/-- What a register reads as while no command runs (10_state R11 to R31; 20_memory R44, R53). -/
def State.regValue (s : State) : Reg → Word
  | .id => Config.idValue
  | .params => Config.paramsValue
  | .cmd => 0#32
  | .arg => s.arg
  | .status => statusWord s
  | .errCode => s.errCode.number.setWidth 32
  | .resSym => s.resSym.setWidth 32
  | .resLen => s.resLen.setWidth 32
  | .resNode => s.resNode.setWidth 32
  | .mapSize => nineBits s.map.length
  | .total => s.total
  | .pqSize => nineBits s.lSize
  | .nodeCount => nineBits s.nodeCount
  | .root => s.rootWord
  | .ctCount => nineBits s.ct.validCount
  | .candLen => BitVec.ofNat 32 (min s.cand.length (2 ^ 32 - 1))
  | .mapIdx => s.mapIdx.setWidth 32
  | .mapEntSym => s.mapEntSym
  | .mapEntCnt => s.mapEntCnt
  | .pqIdx => s.pqIdx.setWidth 32
  | .pqEnt => s.pqEnt
  | .pqEntKey => s.pqEntKey
  | .nodeIdx => s.nodeIdx.setWidth 32
  | .nodeInfo => s.nodeInfo
  | .nodeFreq => s.nodeFreq
  | .nodeKids => s.nodeKids
  | .ctSym => s.ctSym.setWidth 32
  | .ctInfo => s.ctInfo
  | .ctCode k => wordOf s.ctCode k
  | .resCode k => wordOf s.resCode k
  | .candBits k => wordOf (packBits (s.cand.take Config.codeMax)) k

/-- The registers whose reads are defined while a command runs (70_reset R212). -/
def Reg.definedWhileBusy : Reg → Bool
  | .id => true
  | .params => true
  | .cmd => true
  | .arg => true
  | .status => true
  | .mapIdx => true
  | .pqIdx => true
  | .nodeIdx => true
  | .ctSym => true
  | _ => false

/-- BusRead(off): the word and the state after it, which differs only in the count of draws, and only for a read whose value is unspecified
(20_memory R44, R45; 70_reset R212). -/
def busRead (off : Offset) (s : State) : Word × State :=
  match Reg.ofOffset off with
  | none => (0#32, s)
  | some r =>
    if s.pend && !r.definedWhileBusy then (Config.freeWord s.draws, { s with draws := s.draws + 1 })
    else (s.regValue r, s)

/-! ## Writing a register -/

/-- A write of w to CMD: issue while PEND = 0 (70_reset R210), overrun while PEND = 1 (60_exceptions R188). -/
def State.writeCmd (s : State) (w : Word) : State :=
  if s.pend then { s with overrun := true }
  else { s with pend := true, pendCmd := w, pendArg := s.arg }

/-- BusWrite(off, v): the five kinds of registers a write has an effect on; every other write is ignored (20_memory R44, R45). -/
def busWrite (off : Offset) (v : Word) (s : State) : State :=
  match Reg.ofOffset off with
  | some .cmd => s.writeCmd v
  | some .arg => { s with arg := v }
  | some .status => s.clearSticky v
  | some .mapIdx => { s with mapIdx := v.setWidth 9 }
  | some .pqIdx => { s with pqIdx := v.setWidth 9 }
  | some .nodeIdx => { s with nodeIdx := v.setWidth 9 }
  | some .ctSym => { s with ctSym := v.setWidth 8 }
  | _ => s

/-! ## One access -/

/-- A 32-bit access at a multiple of 4 (20_memory R42). -/
def Access.wholeWord : Access → Bool
  | .read w off => w == .word && off.extractLsb' 0 2 == 0#2
  | .write w off _ => w == .word && off.extractLsb' 0 2 == 0#2

/-- One host access: refused with the error response and no effect when it is no whole-word access (20_memory R42) or while reset is asserted
(70_reset R200); otherwise one atomic read or write (20_memory R46). -/
def busAccess (a : Access) (s : State) : Reply × State :=
  if s.resetIn || !a.wholeWord then (.busError, s)
  else
    match a with
    | .read _ off => (.data (busRead off s).1, (busRead off s).2)
    | .write _ off v => (.written, busWrite off v s)

end Sys2Proof.Machine
end

