-- ==== Sys2Proof/Machine/HostPort.lean ====
section
/-! DEFINITION. The host's turn: its next access, and what its program does with the answer (20_memory R47; 30_encoding R68, R69). -/

namespace Sys2Proof.Machine

/-- RD of a register: a whole-word read at its offset (30_encoding R68). -/
def readAccess (r : Reg) : Access := .read .word r.offset

/-- WR of a register: a whole-word write at its offset (30_encoding R68). -/
def writeAccess (r : Reg) (v : Word) : Access := .write .word r.offset v

/-- The access an operation makes in this step. -/
def HostOp.busOp : HostOp → Access
  | .access a => a
  | .wait => readAccess .status
  | .readSymIfValid => readAccess .status
  | .readCode => readAccess .resLen
  | .stopOnError _ => readAccess .errCode

/-- The reads of RES_CODE0 .. RES_CODE((len-1) div 32) (30_encoding R69). -/
def codeReads (len : Word) : List HostOp :=
  ((List.finRange 8).take ((len.toNat - 1) / 32 + 1)).map fun k => .access (readAccess (.resCode k))

/-- What is left of the program after an operation's access: a refused read gave no data, so it is made again (log entry 16). -/
def HostOp.after (op : HostOp) (r : Reply) (rest : List HostOp) : List HostOp :=
  match op, r with
  | .access _, _ => rest
  | .wait, .data v => if v.getLsbD 0 then .wait :: rest else rest
  | .readSymIfValid, .data v => if v.getLsbD 5 then .access (readAccess .resSym) :: rest else rest
  | .readCode, .data v => codeReads v ++ rest
  | .stopOnError skip, .data v => if v = 0#32 then rest else rest.drop skip
  | op, _ => op :: rest

/-- The host's turn. With no operation left the host does nothing. -/
def State.hostTurn (s : State) : State :=
  match s.host with
  | [] => s
  | op :: rest =>
    let (r, t) := busAccess op.busOp s
    { t with host := op.after r rest, replies := s.replies ++ [r] }

end Sys2Proof.Machine
end

