-- ==== Sys2Proof/Machine/Engine.lean ====
section
/-! DEFINITION. The steps of HTB: the engine's completion (70_reset R211), the reset input (70_reset R200), and whose turn it is (20_memory
R47). -/

namespace Sys2Proof.Machine

/-- PEND <- 0 (70_reset R211). -/
def State.retire (s : State) : State := { s with pend := false }

/-- The error code of a pair of words that is no command (30_encoding R64 to R66). -/
def errorOf : DecodeError → ErrCode
  | .cmdMustBeZero => .illegalOpcode
  | .reservedOpcode => .illegalOpcode
  | .illegalOperand => .illegalOperand

/-- The completion of a pair of words that is no command: FATAL_LOCKED comes first, then the decoder's error (30_encoding R67). -/
def rejected (e : DecodeError) (s : State) : Result := guarded s (.next (s.raised (errorOf e)))

/-- The latched CMD and ARG of the pending command (10_state R39). -/
def State.pendWords (s : State) : CommandWords := ⟨s.pendCmd, s.pendArg⟩

/-- The completion of the pending command, in one atomic step: PEND falls and the whole effect of the command is applied (70_reset R211). -/
def complete (s : State) : Result :=
  match decode s.pendWords with
  | .ok i => exec i s.retire
  | .error e => rejected e s.retire

/-- Reset asserted: every piece of state takes its reset value, an issued command is abandoned (70_reset R200, R201). The model's own fields
stand for the outside world and keep their values. -/
def State.assertReset (s : State) : State :=
  { State.reset with resetIn := true, host := s.host, sched := s.sched, replies := s.replies, draws := s.draws }

/-- Reset deasserted: the engine is idle and the next access may follow (70_reset R200). -/
def State.releaseReset (s : State) : State := { s with resetIn := false }

/-- The engine has a step: a command is pending and reset is not asserted (70_reset R200, R211). -/
def State.engineEnabled (s : State) : Bool := s.pend && !s.resetIn

/-- Whose turn the next step is: the schedule's next entry; when it is used up, the engine completes what is pending, and then the host goes
on (20_memory R47; the order is log entry 2's). -/
def State.nextTurn (s : State) : Turn :=
  match s.sched with
  | t :: _ => t
  | [] => if s.engineEnabled then .engine else .host

/-- The schedule's next entry is used up. -/
def State.popSched (s : State) : State := { s with sched := s.sched.tail }

/-- One atomic step (20_memory R47). An agent with no step enabled does nothing: the engine while PEND = 0 (70_reset R211; log entry 13). -/
def takeTurn (t : Turn) (s : State) : Result :=
  match t with
  | .host => .next s.hostTurn
  | .engine => if s.engineEnabled then complete s else .next s
  | .assertReset => .next s.assertReset
  | .releaseReset => .next s.releaseReset

/-- A command made ready to complete in the very next step, whatever was scheduled (log entry 12). -/
def State.withPending (s : State) (w : CommandWords) : State :=
  { s with pend := true, pendCmd := w.cmd, pendArg := w.arg, resetIn := false, sched := .engine :: s.sched }

end Sys2Proof.Machine
end

