-- ==== Sys2Proof/Machine/Step.lean ====
section
/-! DEFINITION. One step of HTB, and how a command is made the next thing the machine runs. -/

namespace Sys2Proof.Machine

/-- One step: the agent whose turn it is takes its atomic step (20_memory R47). -/
def step (s : State) : Host.Outcome State Fault Refusal := takeTurn s.nextTurn s.popSched

/-- HTB fetches nothing (20_memory R50): a command runs because it is latched in PEND_CMD and PEND_ARG with PEND = 1. So the state in which the
next step runs an instruction is the one where its words are latched and it is the engine's turn (log entry 12). -/
def State.withFetchWord (s : State) (nbits w : Nat) : State := s.withPending (tableWords nbits w)

end Sys2Proof.Machine
end

