-- ==== Sys2Proof/Machine/HostProgram.lean ====
section
/-! DEFINITION. The host program notation of 30_encoding R68 and the pseudo-instructions of R69, as lists of host operations. -/

namespace Sys2Proof.Machine.Prog

/-- WR reg, value (30_encoding R68). -/
def wr (r : Reg) (v : Word) : List HostOp := [.access (writeAccess r v)]

/-- RD reg (30_encoding R68). -/
def rd (r : Reg) : List HostOp := [.access (readAccess r)]

/-- EXPECT reg, value: on the bus only the read; the comparison is the reader's (30_encoding R68). -/
def expect (r : Reg) (_value : Word) : List HostOp := rd r

/-- A character operand stands for its 8-bit ASCII code (30_encoding R68; 93_implementation_defined G1). -/
def symOfChar (c : Char) : Sym := BitVec.ofNat 8 c.toNat

/-- A mnemonic: WR ARG unless the form is NONE, WR CMD, WAIT (30_encoding R68). -/
def command (i : Instr) : List HostOp :=
  (if formOf i = .none then [] else wr .arg (encode i).arg) ++ wr .cmd (encode i).cmd ++ [.wait]

/-- An expansion: commands, each with what the host does after it succeeded; it stops at the first command that completes with
ERR_CODE ≠ 0, leaving out what follows in the expansion (30_encoding R69). -/
def expansion : List (Instr × List HostOp) → List HostOp
  | [] => []
  | (i, after) :: rest =>
    command i ++ .stopOnError (after.length + (expansion rest).length) :: (after ++ expansion rest)

/-- The commands of COUNT (30_encoding R69). -/
def countSteps (syms : List Sym) : List (Instr × List HostOp) := syms.map fun x => (.mapCount x, [])

/-- COUNT "s" (30_encoding R69). -/
def count (syms : List Sym) : List HostOp := expansion (countSteps syms)

/-- ENCODE_SEQ "s" (30_encoding R69). -/
def encodeSeq (syms : List Sym) : List HostOp := expansion (syms.map fun x => (.encode x, [.readCode]))

/-- DECODE_SEQ "bits" (30_encoding R69). -/
def decodeSeq (bits : Bits) : List HostOp :=
  expansion ((.decClear, []) :: bits.map (fun b => (.decBit b, [.readSymIfValid])) ++ [(.decEnd, [])])

/-- HUFFMAN "s" (30_encoding R69). -/
def huffman (syms : List Sym) : List HostOp :=
  expansion ((.mapClear, []) :: countSteps syms ++ [(.buildTree, []), (.buildCodes, [])])

end Sys2Proof.Machine.Prog
end

