-- ==== Sys2Proof/Machine/Sequences.lean ====
section
/-! DEFINITION. Commands one after another, each completed before the next is issued (20_memory R48), and the whole-sequence encode and decode
the host makes of them (44_codec R151, R157). -/

namespace Sys2Proof.Machine

/-- The commands of a list, completed in order (20_memory R48). -/
def execAll : List Instr → State → Result
  | [], s => .next s
  | i :: is, s =>
    match exec i s with
    | .next t => execAll is t
    | .fault r => .fault r
    | .refused r => .refused r

/-- The code the host reads from RES_LEN and RES_CODE: c_0 .. c_{RES_LEN-1} (30_encoding R69; 10_state R20). -/
def State.resultCode (s : State) : Bits := (List.range s.resLen.toNat).map s.resCode.getLsbD

/-- Whole-sequence encode: one ENCODE per symbol, the codes concatenated; `none` when one of them reports an error (44_codec R151). -/
def encodeStream : List Sym → State → Option (Bits × State)
  | [], s => some ([], s)
  | x :: xs, s =>
    match exec (.encode x) s with
    | .next t =>
      if t.errCode = .none then (encodeStream xs t).map fun p => (t.resultCode ++ p.1, p.2) else none
    | _ => none

/-- The symbol a DEC_BIT emitted, if it emitted one: RES_SYM when RES_VALID = 1 (44_codec R157). -/
def State.emitted (s : State) : List Sym := if s.resValid then [s.resSym] else []

/-- One DEC_BIT per bit, the emitted symbols in order; `none` when one of them reports an error (44_codec R157). -/
def decodeBits : Bits → State → Option (List Sym × State)
  | [], s => some ([], s)
  | b :: bs, s =>
    match exec (.decBit b) s with
    | .next t => if t.errCode = .none then (decodeBits bs t).map fun p => (t.emitted ++ p.1, p.2) else none
    | _ => none

/-- Whole-sequence decode: DEC_CLEAR, the DEC_BITs, DEC_END; `none` when a command reports an error, as DEC_END does on an unfinished candidate
(44_codec R157). -/
def decodeStream (bits : Bits) (s : State) : Option (List Sym × State) :=
  match exec .decClear s with
  | .next t =>
    if t.errCode = .none then
      match decodeBits bits t with
      | some (out, u) =>
        match exec .decEnd u with
        | .next v => if v.errCode = .none then some (out, v) else none
        | _ => none
      | none => none
    else none
  | _ => none

end Sys2Proof.Machine
end

