-- ==== Sys2Proof/Safety.lean ====
section
/-! DEFINITION. What holds of HTB's state at every command boundary (10_state R32 to R37; 42_tree_builder R133; 00_scope R7), in the terms the
statements use. -/

namespace Sys2Proof.Machine

/-! ## The frequency map (10_state R32) -/

/-- The keys of MAP in iteration order (40_frequency_map R102). -/
def State.keys (s : State) : List Sym := s.map.map (·.sym)

/-- The sum of all counts (10_state R32). -/
def State.countSum (s : State) : Nat := (s.map.map (·.cnt.toNat)).sum

/-- The invariants of MAP and TOTAL (10_state R32). -/
structure State.MapInv (s : State) : Prop where
  /-- Each symbol appears at most once as a key. -/
  keysDistinct : s.keys.Nodup
  /-- Every cnt ≥ 1. -/
  countsPositive : ∀ e ∈ s.map, 1 ≤ e.cnt.toNat
  /-- The sum of all cnt equals TOTAL. -/
  sumIsTotal : s.countSum = s.total.toNat

/-! ## The arena, the list and ROOT (10_state R33 to R36) -/

/-- The children of a record. -/
def Node.kids : Node → List NodeIdx
  | .leaf _ _ => []
  | .internal _ left right => [left, right]

/-- The symbol of a leaf. -/
def Node.leafSym : Node → Option Sym
  | .leaf sym _ => some sym
  | .internal _ _ _ => none

/-- What 10_state R34 says of the record at index n: a leaf's freq is at least 1; an internal node's children are two different earlier nodes
and its freq is the exact sum of theirs. -/
def Node.wellPlaced (key : NodeIdx → Count) (n : NodeIdx) : Node → Bool
  | .leaf _ f => decide (1 ≤ f.toNat)
  | .internal f left right => decide (left < n ∧ right < n ∧ left ≠ right ∧ f.toNat = (key left).toNat + (key right).toNat)

/-- Every child field of the arena. -/
def State.children (s : State) : List NodeIdx := s.nodes.flatMap Node.kids

/-- Everything that references a node: the elements of LIST, the child fields, ROOT (10_state R35). -/
def State.references (s : State) : List NodeIdx := s.list ++ s.children ++ s.root.toList

/-- The nodes no other node references. -/
def State.tops (s : State) : List NodeIdx := (List.range s.nodeCount).filter (· ∉ s.children)

/-- The sum of the frequencies of the nodes no other node references: the counts of all leaves (42_tree_builder R133). -/
def State.topWeight (s : State) : Nat := (s.tops.map fun n => (s.key n).toNat).sum

/-- The symbols of the arena's leaves. -/
def State.leafSyms (s : State) : List Sym := s.nodes.filterMap Node.leafSym

/-- The number of internal nodes. -/
def State.internalCount (s : State) : Nat := s.nodes.countP (·.leafSym.isNone)

/-- LIST's order: non-decreasing keys, and among equal keys the order of insertion, which is the order of the indices, since a node is inserted
when it is allocated (10_state R33; 41_priority_list R121). -/
def State.before (s : State) (a b : NodeIdx) : Prop := s.key a < s.key b ∨ (s.key a = s.key b ∧ a < b)

/-- The invariants of the arena, LIST and ROOT. -/
structure State.TreeInv (s : State) : Prop where
  /-- Every record is as 10_state R34 says. -/
  recordsWellPlaced : ∀ p ∈ s.nodes.zipIdx, p.1.wellPlaced s.key p.2 = true
  /-- Single ownership (10_state R35; for LIST also R33). -/
  referencedOnce : s.references.Nodup
  /-- Every reference is to an allocated node (10_state R33, R34, R36). -/
  referencesAllocated : ∀ n ∈ s.references, n < s.nodeCount
  /-- LIST is ordered by key, first in first out among equal keys (10_state R33). -/
  listOrdered : s.list.Pairwise s.before
  /-- The leaves have different symbols (43_code_table R140, corner cases). -/
  leavesDistinct : s.leafSyms.Nodup
  /-- No frequency sum can overflow (42_tree_builder R133). -/
  weightFits : s.topWeight < 2 ^ 32
  /-- There are enough leaves for the merges still to come (00_scope R7). -/
  mergesFit : s.list.length + s.internalCount ≤ s.leafSyms.length
  /-- At most NODE_MAX nodes (20_memory R51). -/
  arenaFits : s.nodeCount ≤ Config.nodeMax

/-! ## The code table and the candidate (10_state R37, R38) -/

/-- The valid codes, in the order of their symbols. -/
def CodeTable.codes (ct : CodeTable) : List Bits := ct.toList.filterMap id

/-- No valid code is a prefix of another (10_state R37; 43_code_table R143); distinctness is part of it. -/
def CodeTable.PrefixFree (ct : CodeTable) : Prop := ct.codes.Pairwise fun c d => ¬c <+: d ∧ ¬d <+: c

/-- The invariants of CT and CAND that BUILD_CODES keeps whatever the arena holds. -/
structure State.TableInv (s : State) : Prop where
  /-- No valid code is a prefix of another (43_code_table R143). -/
  prefixFree : s.ct.PrefixFree
  /-- No valid code is empty (10_state R37: LEN is at least 1). -/
  codesNonempty : ∀ c ∈ s.ct.codes, c ≠ []
  /-- The candidate has not run past a code: no valid code is a prefix of CAND (44_codec R153, corner cases). -/
  candidateUnmatched : ∀ c ∈ s.ct.codes, ¬c <+: s.cand

/-! ## The whole state -/

/-- Every piece of HTB's state has its reset value while reset is asserted (70_reset R200). -/
def State.ResetInv (s : State) : Prop := s.resetIn = true → s.assertReset = s

/-- The invariant of the machine. -/
structure State.Inv (s : State) : Prop where
  mapInv : s.MapInv
  treeInv : s.TreeInv
  tableInv : s.TableInv
  /-- Every valid code is at most CODE_MAX bits long (00_scope R7; 10_state R37). -/
  codesFit : ∀ c ∈ s.ct.codes, c.length ≤ Config.codeMax
  resetInv : s.ResetInv

/-! ## Paths in a tree (43_code_table R142) -/

/-- The node reached from n by following a bit string, 0 to the left and 1 to the right (44_codec R156). -/
def State.walk (s : State) : NodeIdx → Bits → Option NodeIdx
  | n, [] => some n
  | n, b :: bs =>
    match s.nodes[n]? with
    | some (.internal _ left right) => s.walk (if b then right else left) bs
    | _ => none

/-- The path from n by c ends at the leaf of sym (43_code_table R142). -/
def State.LeadsTo (s : State) (n : NodeIdx) (c : Bits) (sym : Sym) : Prop :=
  ∃ m f, s.walk n c = some m ∧ s.nodes[m]? = some (.leaf sym f)

/-! ## A run of a host program (70_reset R220) -/

/-- The run is over: the host program has issued its last access and PEND = 0 (70_reset R220). -/
def State.runOver (s : State) : Bool := s.host.isEmpty && !s.pend

/-- The values the host read, in order; with the final state, the observation of the run (70_reset R220). -/
def State.valuesRead (s : State) : List Word :=
  s.replies.filterMap fun
    | .data v => some v
    | .written => none
    | .busError => none

/-! ## Commands and steps, in the terms the statements use -/

/-- What no command changes: the registers only the host writes, PEND, the reset input and the model's own fields (10_state R14, R27; 70_reset
R211). -/
structure State.SameHostSide (s t : State) : Prop where
  arg : t.arg = s.arg
  mapIdx : t.mapIdx = s.mapIdx
  pqIdx : t.pqIdx = s.pqIdx
  nodeIdx : t.nodeIdx = s.nodeIdx
  ctSym : t.ctSym = s.ctSym
  pend : t.pend = s.pend
  resetIn : t.resetIn = s.resetIn
  host : t.host = s.host
  sched : t.sched = s.sched
  replies : t.replies = s.replies
  draws : t.draws = s.draws

/-- The state is ready for the engine to complete its pending command in the next step (70_reset R211). -/
def State.Completing (s : State) : Prop := s.nextTurn = .engine ∧ s.pend = true ∧ s.resetIn = false

/-- In the fatal state the command completes with FATAL_LOCKED and changes nothing else (60_exceptions R187). -/
def LockedWhenFatal (i : Instr) : Prop :=
  ∀ s : State, s.fatal = true → exec i s = .next { s with errCode := .fatalLocked, err := true }

/-- The errors of a command's own checks (60_exceptions R181, after the common ones). -/
def ownErrors : Instr → List ErrCode
  | .mapCount _ => [.countOverflow]
  | .pqRemoveFirst => [.underflowViolation]
  | .pqRemoveAt _ => [.underflowViolation, .indexRange]
  | .pqMergeStep => [.underflowViolation]
  | .pqExtractRoot => [.underflowViolation, .sequence]
  | .buildTree => [.emptyInput]
  | .encode _ => [.lookupMiss]
  | .decEnd => [.decodeExhaustion]
  | .nop => []
  | .mapClear => []
  | .pqClear => []
  | .pqLoadLeaves => []
  | .buildCodes => []
  | .decBit _ => []
  | .decClear => []
  | .softReset => []

end Sys2Proof.Machine
end

