-- ==== Sys2Proof/Certificates/Slice0/Obligations.lean ====
section
/-! DEFINITION. The statements about HTB, for the provers. Each cites the rule of spec/ it formalises. -/

open Sys2Proof Sys2Proof.Machine

/-! ## Encoding (30_encoding) -/

/-- R60, R61, R63: a pair of words decodes to a command exactly when CMD is its opcode with CMD[31:8] zero and, unless its form is NONE, ARG is its
operand zero-extended. -/
def Obligations.DecodesExactlyTheCommandWords : Prop :=
  ∀ (w : CommandWords) (i : Instr),
    decode w = .ok i ↔ w.cmd = (encode i).cmd ∧ (formOf i = .none ∨ w.arg = (encode i).arg)

/-- R63 to R66: words written out from the opcode map, one of each operand form and each error among them. -/
def Obligations.SpecWordsDecode : Prop :=
  decode ⟨0x00000000#32, 0xFFFFFFFF#32⟩ = .ok .nop ∧ decode ⟨0x00000002#32, 0x00000061#32⟩ = .ok (.mapCount 0x61#8) ∧
    decode ⟨0x00000013#32, 0x000001FF#32⟩ = .ok (.pqRemoveAt 511#9) ∧ decode ⟨0x00000022#32, 0#32⟩ = .ok .buildTree ∧
    decode ⟨0x00000030#32, 0#32⟩ = .ok .buildCodes ∧ decode ⟨0x00000041#32, 0x00000001#32⟩ = .ok (.decBit true) ∧
    decode ⟨0x000000FF#32, 0x12345678#32⟩ = .ok .softReset ∧ decode ⟨0x00000003#32, 0#32⟩ = .error .reservedOpcode ∧
    decode ⟨0x00000101#32, 0#32⟩ = .error .cmdMustBeZero ∧ decode ⟨0x00000002#32, 0x00000161#32⟩ = .error .illegalOperand

/-- R64: a reserved opcode completes with ILLEGAL_OPCODE and changes no other state (outside the fatal state, whose check comes first, R67). -/
def Obligations.ReservedOpcodeIsIllegal : Prop :=
  ∀ (s : State) (o : Nat), s.Completing → s.fatal = false → o = s.pendCmd.toNat % 256 →
    ((0x03 ≤ o ∧ o ≤ 0x0F) ∨ (0x14 ≤ o ∧ o ≤ 0x1F) ∨ (0x23 ≤ o ∧ o ≤ 0x2F) ∨ (0x31 ≤ o ∧ o ≤ 0x3F) ∨ (0x44 ≤ o ∧ o ≤ 0xFE)) →
    step s = .next { s with pend := false, sched := s.sched.tail, errCode := .illegalOpcode, err := true }

/-- R65: CMD[31:8] not all zero completes with ILLEGAL_OPCODE, whatever the OPC, and changes no other state. -/
def Obligations.NonzeroCmdHighBitsAreIllegal : Prop :=
  ∀ s : State, s.Completing → s.fatal = false → 0x100 ≤ s.pendCmd.toNat →
    step s = .next { s with pend := false, sched := s.sched.tail, errCode := .illegalOpcode, err := true }

/-- R66: a must-be-zero bit of the latched ARG completes a SYM, IDX or BIT command with ILLEGAL_OPERAND and changes no other state; a command of
form NONE ignores ARG. -/
def Obligations.OperandMustBeZeroBits : Prop :=
  (∀ s : State, s.Completing → s.fatal = false →
    ((s.pendCmd = 0x02#32 ∧ 0x100 ≤ s.pendArg.toNat) ∨ (s.pendCmd = 0x40#32 ∧ 0x100 ≤ s.pendArg.toNat) ∨
      (s.pendCmd = 0x13#32 ∧ 0x200 ≤ s.pendArg.toNat) ∨ (s.pendCmd = 0x41#32 ∧ 2 ≤ s.pendArg.toNat)) →
    step s = .next { s with pend := false, sched := s.sched.tail, errCode := .illegalOperand, err := true }) ∧
  ∀ (i : Instr) (cmd arg arg' : Word), formOf i = .none → decode ⟨cmd, arg⟩ = .ok i → decode ⟨cmd, arg'⟩ = .ok i

/-- R187: in the fatal state every CMD word but 0x000000FF completes with FATAL_LOCKED and changes nothing else. -/
def Obligations.FatalStateLocksEveryOtherWord : Prop :=
  ∀ s : State, s.Completing → s.fatal = true → s.pendCmd ≠ 0x000000FF#32 →
    step s = .next { s with pend := false, sched := s.sched.tail, errCode := .fatalLocked, err := true }

/-- R211, R47, R68: what a step does, turn by turn. When it is the engine's turn and the pending words decode to a command, the step is that command's
whole effect on the state with PEND fallen; while PEND = 0 the engine has no step (log entry 13). When it is the host's, its next access takes effect
and is answered; WAIT reads STATUS and is done once BUSY = 0; a host with no operation left does nothing. (The schedule's entry, the rest of the host's
program and the replies are the model's own: log entries 1 and 16.) -/
def Obligations.StepRunsThePendingCommand : Prop :=
  (∀ (s : State) (i : Instr), s.Completing → decode ⟨s.pendCmd, s.pendArg⟩ = .ok i →
    step s = exec i { s with pend := false, sched := s.sched.tail }) ∧
  (∀ s : State, s.nextTurn = .engine → s.pend = false → step s = .next { s with sched := s.sched.tail }) ∧
  (∀ (s : State) (a : Access) (rest : List HostOp), s.nextTurn = .host → s.host = .access a :: rest →
    step s = .next { (busAccess a { s with sched := s.sched.tail }).2 with
      host := rest, replies := s.replies ++ [(busAccess a { s with sched := s.sched.tail }).1] }) ∧
  (∀ (s : State) (rest : List HostOp), s.nextTurn = .host → s.resetIn = false → s.host = .wait :: rest →
    step s = .next { s with
      sched := s.sched.tail
      host := if s.pend then .wait :: rest else rest
      replies := s.replies ++ [.data (s.regValue .status)] }) ∧
  ∀ s : State, s.nextTurn = .host → s.host = [] → step s = .next { s with sched := s.sched.tail }

/-! ## The commands -/

/-- R170, the whole of NOP. A word whose bits [31:8] are not zero is an ILLEGAL_OPCODE. -/
def Obligations.NopOnlyCompletes : Prop :=
  (∀ arg, decode ⟨0x00000000#32, arg⟩ = .ok .nop) ∧ LockedWhenFatal .nop ∧
    (∀ cmd arg : Word, 0x100 ≤ cmd.toNat → decode ⟨cmd, arg⟩ = .error .cmdMustBeZero ∧ errorOf .cmdMustBeZero = .illegalOpcode) ∧
    ∀ s : State, s.fatal = false → exec .nop s = .next { s with errCode := .none }

/-- R100, the whole of MAP_CLEAR. -/
def Obligations.MapClearEmptiesTheMap : Prop :=
  (∀ arg, decode ⟨0x00000001#32, arg⟩ = .ok .mapClear) ∧ LockedWhenFatal .mapClear ∧
    ∀ s : State, s.fatal = false → exec .mapClear s = .next { s with map := [], total := 0#32, errCode := .none }

/-- R101, the whole of MAP_COUNT: the illegal operand, the overflow, a fresh symbol, and a symbol already counted. -/
def Obligations.MapCountCountsOneOccurrence : Prop :=
  (∀ sym : Sym, decode ⟨0x00000002#32, sym.setWidth 32⟩ = .ok (.mapCount sym)) ∧ (∀ sym, LockedWhenFatal (.mapCount sym)) ∧
    (∀ arg : Word, 0x100 ≤ arg.toNat → decode ⟨0x00000002#32, arg⟩ = .error .illegalOperand ∧ errorOf .illegalOperand = .illegalOperand) ∧
    ∀ (sym : Sym) (s : State), s.fatal = false →
      (s.total = 0xFFFFFFFF#32 → exec (.mapCount sym) s = .next { s with errCode := .countOverflow, err := true }) ∧
      (s.total ≠ 0xFFFFFFFF#32 → (∀ e ∈ s.map, e.sym ≠ sym) →
        exec (.mapCount sym) s = .next { s with map := s.map ++ [⟨sym, 1#32⟩], total := s.total + 1#32, errCode := .none }) ∧
      (s.total ≠ 0xFFFFFFFF#32 → ∀ pre e post, s.map = pre ++ e :: post → e.sym = sym → (∀ x ∈ pre, x.sym ≠ sym) →
        exec (.mapCount sym) s =
          .next { s with map := pre ++ ⟨sym, e.cnt + 1#32⟩ :: post, total := s.total + 1#32, errCode := .none })

/-- R118, the whole of PQ_CLEAR. -/
def Obligations.PqClearEmptiesListAndArena : Prop :=
  (∀ arg, decode ⟨0x00000010#32, arg⟩ = .ok .pqClear) ∧ LockedWhenFatal .pqClear ∧
    ∀ s : State, s.fatal = false → exec .pqClear s = .next { s with list := [], nodes := [], root := none, errCode := .none }

/-- R117 with R121: leaf j is MAP's entry j, and LIST holds the leaves ordered by count, in MAP's order among equal counts. -/
def Obligations.PqLoadLeavesOrdersTheLeaves : Prop :=
  (∀ arg, decode ⟨0x00000011#32, arg⟩ = .ok .pqLoadLeaves) ∧ LockedWhenFatal .pqLoadLeaves ∧
    ∀ s : State, s.fatal = false →
      ∃ l : List NodeIdx,
        exec .pqLoadLeaves s =
          .next { s with nodes := s.map.map (fun e => .leaf e.sym e.cnt), list := l, root := none, errCode := .none } ∧
        l.Perm (List.range s.map.length) ∧
        l.Pairwise fun a b =>
          (s.map.map (·.cnt)).getD a 0#32 < (s.map.map (·.cnt)).getD b 0#32 ∨
            ((s.map.map (·.cnt)).getD a 0#32 = (s.map.map (·.cnt)).getD b 0#32 ∧ a < b)

/-- R119, the whole of PQ_REMOVE_FIRST. -/
def Obligations.PqRemoveFirstTakesTheFirstEntry : Prop :=
  (∀ arg, decode ⟨0x00000012#32, arg⟩ = .ok .pqRemoveFirst) ∧ LockedWhenFatal .pqRemoveFirst ∧
    ∀ s : State, s.fatal = false →
      (s.list = [] → exec .pqRemoveFirst s = .next { s with errCode := .underflowViolation, err := true, fatal := true }) ∧
      ∀ n rest, s.list = n :: rest →
        exec .pqRemoveFirst s = .next { s with list := rest, resNode := BitVec.ofNat 9 n, errCode := .none }

/-- R120, the whole of PQ_REMOVE_AT. -/
def Obligations.PqRemoveAtRemovesByPosition : Prop :=
  (∀ idx : BitVec 9, decode ⟨0x00000013#32, idx.setWidth 32⟩ = .ok (.pqRemoveAt idx)) ∧ (∀ idx, LockedWhenFatal (.pqRemoveAt idx)) ∧
    (∀ arg : Word, 0x200 ≤ arg.toNat → decode ⟨0x00000013#32, arg⟩ = .error .illegalOperand ∧ errorOf .illegalOperand = .illegalOperand) ∧
    ∀ (idx : BitVec 9) (s : State), s.fatal = false →
      (s.list = [] → exec (.pqRemoveAt idx) s = .next { s with errCode := .underflowViolation, err := true, fatal := true }) ∧
      (s.list ≠ [] → s.list.length ≤ idx.toNat → exec (.pqRemoveAt idx) s = .next { s with errCode := .indexRange, err := true }) ∧
      ∀ pre n post, s.list = pre ++ n :: post → pre.length = idx.toNat →
        exec (.pqRemoveAt idx) s = .next { s with list := pre ++ post, resNode := BitVec.ofNat 9 n, errCode := .none }

/-- R130, the whole of PQ_MERGE_STEP: the first entry is the left child, the second the right child, and the new node stands after the entries
whose keys are not greater than its frequency and immediately before the first whose key is. -/
def Obligations.PqMergeStepMergesTheTwoFirst : Prop :=
  (∀ arg, decode ⟨0x00000020#32, arg⟩ = .ok .pqMergeStep) ∧ LockedWhenFatal .pqMergeStep ∧
    ∀ s : State, s.fatal = false →
      (s.list.length < 2 → exec .pqMergeStep s = .next { s with errCode := .underflowViolation, err := true, fatal := true }) ∧
      ∀ l r rest, s.list = l :: r :: rest →
        ∃ pre post t, rest = pre ++ post ∧ exec .pqMergeStep s = .next t ∧
          t = { s with
            nodes := s.nodes ++ [.internal (s.key l + s.key r) l r], list := pre ++ s.nodes.length :: post,
            resNode := BitVec.ofNat 9 s.nodes.length, errCode := .none } ∧
          (∀ m ∈ pre, t.key m ≤ s.key l + s.key r) ∧ ∀ m ∈ post.head?, s.key l + s.key r < t.key m

/-- R131, the whole of PQ_EXTRACT_ROOT. -/
def Obligations.PqExtractRootTakesTheSingleEntry : Prop :=
  (∀ arg, decode ⟨0x00000021#32, arg⟩ = .ok .pqExtractRoot) ∧ LockedWhenFatal .pqExtractRoot ∧
    ∀ s : State, s.fatal = false →
      (s.list = [] → exec .pqExtractRoot s = .next { s with errCode := .underflowViolation, err := true, fatal := true }) ∧
      (1 < s.list.length → exec .pqExtractRoot s = .next { s with errCode := .sequence, err := true }) ∧
      ∀ n, s.list = [n] →
        exec .pqExtractRoot s = .next { s with list := [], root := some n, resNode := BitVec.ofNat 9 n, errCode := .none }

/-- R132: BUILD_TREE on an empty map reports EMPTY_INPUT with the tree emptied; on a map of m ≥ 1 entries it completes with NODE_COUNT = 2m - 1, the
m leaves first, ROOT.IDX = RES_NODE = 2m - 2 and LIST empty, and changes nothing else. -/
def Obligations.BuildTreeBuildsOneTree : Prop :=
  (∀ arg, decode ⟨0x00000022#32, arg⟩ = .ok .buildTree) ∧ LockedWhenFatal .buildTree ∧
    ∀ s : State, s.fatal = false →
      (s.map = [] →
        exec .buildTree s = .next { s with list := [], nodes := [], root := none, errCode := .emptyInput, err := true }) ∧
      (s.map ≠ [] →
        ∃ nodes : List Node,
          exec .buildTree s =
            .next { s with
              nodes := nodes, list := [], root := some (2 * s.map.length - 2),
              resNode := BitVec.ofNat 9 (2 * s.map.length - 2), errCode := .none } ∧
          nodes.length = 2 * s.map.length - 1 ∧ nodes.take s.map.length = s.map.map fun e => .leaf e.sym e.cnt)

/-- R132, 42_tree_builder's opening: BUILD_TREE is PQ_LOAD_LEAVES, then one PQ_MERGE_STEP fewer than the map has entries, then PQ_EXTRACT_ROOT. -/
def Obligations.BuildTreeIsLoadMergeExtract : Prop :=
  ∀ s : State, s.fatal = false → s.map ≠ [] →
    exec .buildTree s = execAll (.pqLoadLeaves :: List.replicate (s.map.length - 1) .pqMergeStep ++ [.pqExtractRoot]) s

/-- R141 and the two edge cases of R140: no root gives the empty table, a root that is a leaf gives its symbol the code "0". -/
def Obligations.BuildCodesEdgeTables : Prop :=
  (∀ arg, decode ⟨0x00000030#32, arg⟩ = .ok .buildCodes) ∧ LockedWhenFatal .buildCodes ∧
    ∀ s : State, s.fatal = false →
      (s.root = none → exec .buildCodes s = .next { s with ct := CodeTable.empty, cand := [], errCode := .none }) ∧
      ∀ n sym f, s.root = some n → s.nodes[n]? = some (.leaf sym f) →
        ∃ ct : CodeTable, exec .buildCodes s = .next { s with ct := ct, cand := [], errCode := .none } ∧
          ct.entry sym = some [false] ∧ ∀ x, x ≠ sym → ct.entry x = none

/-- R140, R142 for a ROOT that is an internal node (a leaf is BuildCodesEdgeTables's): a symbol's code is exactly the path from ROOT to its leaf. -/
def Obligations.BuildCodesRecordsThePaths : Prop :=
  ∀ (s : State) (n l r : NodeIdx) (f : Count), s.fatal = false → s.TreeInv → s.root = some n → s.nodes[n]? = some (.internal f l r) →
    ∃ ct : CodeTable, exec .buildCodes s = .next { s with ct := ct, cand := [], errCode := .none } ∧
      ∀ sym c, ct.entry sym = some c ↔ s.LeadsTo n c sym

/-- R150, the whole of ENCODE, with R20's bit positions. -/
def Obligations.EncodeLooksUpTheCode : Prop :=
  (∀ sym : Sym, decode ⟨0x00000040#32, sym.setWidth 32⟩ = .ok (.encode sym)) ∧ (∀ sym, LockedWhenFatal (.encode sym)) ∧
    (∀ arg : Word, 0x100 ≤ arg.toNat → decode ⟨0x00000040#32, arg⟩ = .error .illegalOperand ∧ errorOf .illegalOperand = .illegalOperand) ∧
    ∀ (sym : Sym) (s : State), s.fatal = false →
      (s.ct.entry sym = none → exec (.encode sym) s = .next { s with errCode := .lookupMiss, err := true }) ∧
      ∀ c, s.ct.entry sym = some c →
        ∃ v : BitVec 256,
          exec (.encode sym) s = .next { s with resLen := BitVec.ofNat 8 c.length, resCode := v, errCode := .none } ∧
          ∀ i, i < 256 → v.getLsbD i = c.getD i false

/-- R152, R153, the whole of DEC_BIT: no code matches, or exactly one does. -/
def Obligations.DecBitExtendsOrEmits : Prop :=
  (∀ b : Bool, decode ⟨0x00000041#32, if b then 1#32 else 0#32⟩ = .ok (.decBit b)) ∧ (∀ b, LockedWhenFatal (.decBit b)) ∧
    (∀ arg : Word, 2 ≤ arg.toNat → decode ⟨0x00000041#32, arg⟩ = .error .illegalOperand ∧ errorOf .illegalOperand = .illegalOperand) ∧
    ∀ (b : Bool) (s : State), s.fatal = false →
      ((∀ x, s.ct.entry x ≠ some (s.cand ++ [b])) →
        exec (.decBit b) s = .next { s with cand := s.cand ++ [b], resValid := false, errCode := .none }) ∧
      ∀ sym, s.ct.entry sym = some (s.cand ++ [b]) → (∀ x, s.ct.entry x = some (s.cand ++ [b]) → x = sym) →
        exec (.decBit b) s = .next { s with cand := [], resSym := sym, resValid := true, errCode := .none }

/-- R154, the whole of DEC_END. -/
def Obligations.DecEndReportsAnOpenCandidate : Prop :=
  (∀ arg, decode ⟨0x00000042#32, arg⟩ = .ok .decEnd) ∧ LockedWhenFatal .decEnd ∧
    ∀ s : State, s.fatal = false →
      (s.cand = [] → exec .decEnd s = .next { s with errCode := .none }) ∧
      (s.cand ≠ [] → exec .decEnd s = .next { s with errCode := .decodeExhaustion, err := true })

/-- R155, the whole of DEC_CLEAR. -/
def Obligations.DecClearDropsTheCandidate : Prop :=
  (∀ arg, decode ⟨0x00000043#32, arg⟩ = .ok .decClear) ∧ LockedWhenFatal .decClear ∧
    ∀ s : State, s.fatal = false → exec .decClear s = .next { s with cand := [], resValid := false, errCode := .none }

/-- R171, the whole of SOFT_RESET, in every state, the fatal one too: the reset values, but ARG and the index registers keep theirs. (PEND_CMD and
PEND_ARG, of which R171 does not speak, are left open here: log entry 7. The last five fields are the reset input's level and the model's own.)
Only the exact word 0x000000FF is SOFT_RESET. -/
def Obligations.SoftResetRestoresTheResetValues : Prop :=
  (∀ cmd arg : Word, decode ⟨cmd, arg⟩ = .ok .softReset ↔ cmd = 0x000000FF#32) ∧
    ∀ s : State, ∃ (pc pa : Word),
      exec .softReset s =
        .next { State.reset with
          arg := s.arg, mapIdx := s.mapIdx, pqIdx := s.pqIdx, nodeIdx := s.nodeIdx, ctSym := s.ctSym
          pend := s.pend, pendCmd := pc, pendArg := pa
          resetIn := s.resetIn, host := s.host, sched := s.sched, replies := s.replies, draws := s.draws }

/-- R112: L_INSERT puts n after the entries whose keys are not greater and immediately before the first whose key is strictly greater. -/
def Obligations.InsertGoesBeforeTheFirstGreater : Prop :=
  ∀ (s : State) (n : NodeIdx),
    ∃ pre post, s.list = pre ++ post ∧ s.lInsert n = { s with list := pre ++ n :: post } ∧ (∀ m ∈ pre, s.key m ≤ s.key n) ∧
      ∀ m ∈ post.head?, s.key n < s.key m

/-! ## Rules over all commands -/

/-- R14, R27, R219: every command completes, and none writes ARG, an index register, PEND, or anything outside HTB. -/
def Obligations.EveryCommandCompletes : Prop :=
  ∀ (i : Instr) (s : State), ∃ t, exec i s = .next t ∧ s.SameHostSide t

/-- R182: an error changes ERR_CODE, STATUS.ERR and, for UNDERFLOW_VIOLATION, FATAL, and nothing else, but for BUILD_TREE's EMPTY_INPUT, which
empties LIST, the arena and ROOT. -/
def Obligations.ErrorsChangeOnlyTheReport : Prop :=
  ∀ (i : Instr) (s t : State), exec i s = .next t → t.errCode ≠ .none →
    (t.errCode ≠ .emptyInput →
      t = { s with errCode := t.errCode, err := true, fatal := s.fatal || t.errCode == .underflowViolation }) ∧
    (t.errCode = .emptyInput →
      i = .buildTree ∧ t = { s with list := [], nodes := [], root := none, errCode := .emptyInput, err := true })

/-- R181: the codes a command can complete with. R17, R180: the number ERR_CODE reads as for each. -/
def Obligations.ErrorCodesOfEachCommand : Prop :=
  (∀ (i : Instr) (s t : State), exec i s = .next t →
    t.errCode = .none ∨ (t.errCode = .fatalLocked ∧ i ≠ .softReset ∧ s.fatal = true) ∨
      (t.errCode ∈ ownErrors i ∧ s.fatal = false)) ∧
  ∀ (s : State) (e : ErrCode) (n : Word), s.errCode = e →
    (e, n) ∈ [(ErrCode.none, 0#32), (.emptyInput, 1#32), (.lookupMiss, 2#32), (.decodeExhaustion, 3#32), (.underflowViolation, 4#32),
      (.countOverflow, 5#32), (.illegalOpcode, 6#32), (.illegalOperand, 7#32), (.indexRange, 8#32), (.sequence, 9#32),
      (.fatalLocked, 10#32)] →
    s.regValue .errCode = n

/-- R183: ERR is set by every completion with a code other than 0 and cleared only by a write to STATUS with bit 1 set, by SOFT_RESET or by
reset. -/
def Obligations.ErrIsSticky : Prop :=
  (∀ s t : State, s.Completing → step s = .next t → t.errCode ≠ .none → t.err = true) ∧
  ∀ s t : State, step s = .next t → s.err = true → t.err = false →
    s.nextTurn = .assertReset ∨ (s.nextTurn = .engine ∧ s.pendCmd = 0x000000FF#32) ∨
      (s.nextTurn = .host ∧ ∃ v rest, s.host = .access (.write .word 0x010#12 v) :: rest ∧ v.getLsbD 1 = true)

/-- R186: FATAL is set only by a completion with UNDERFLOW_VIOLATION and left only through the exact word of SOFT_RESET or through reset. -/
def Obligations.FatalIsLeftOnlyByReset : Prop :=
  (∀ s t : State, step s = .next t → s.fatal = true → t.fatal = false →
    s.nextTurn = .assertReset ∨ (s.nextTurn = .engine ∧ s.pendCmd = 0x000000FF#32)) ∧
  ∀ s t : State, step s = .next t → s.fatal = false → t.fatal = true → s.Completing ∧ t.errCode = .underflowViolation

/-- R216: only BUILD_CODES and SOFT_RESET change CT, the map commands change none of the later stages, the decoder and encoder change no stage. -/
def Obligations.NoCommandInvalidatesAnotherStage : Prop :=
  ∀ (i : Instr) (s t : State), exec i s = .next t → i ≠ .softReset →
    (i ≠ .buildCodes → t.ct = s.ct) ∧
    ((∀ x, i ≠ .mapCount x) → i ≠ .mapClear → t.map = s.map ∧ t.total = s.total) ∧
    (i ∈ [.nop, .mapClear, .buildCodes, .decEnd, .decClear] ∨ (∃ x, i = .mapCount x ∨ i = .encode x) ∨ (∃ b, i = .decBit b) →
      t.list = s.list ∧ t.nodes = s.nodes ∧ t.root = s.root) ∧
    (i = .buildCodes → s.fatal = false → t.cand = [])

/-- R18 to R21: which commands write the result registers. -/
def Obligations.ResultRegistersHaveTheirWriters : Prop :=
  ∀ (i : Instr) (s t : State), exec i s = .next t → i ≠ .softReset →
    (t.resSym = s.resSym ∨ ∃ b, i = .decBit b ∧ t.resValid = true) ∧
    (t.resLen = s.resLen ∧ t.resCode = s.resCode ∨ ∃ x, i = .encode x ∧ t.errCode = .none) ∧
    (t.resNode = s.resNode ∨
      t.errCode = .none ∧ (i ∈ [.pqRemoveFirst, .pqMergeStep, .pqExtractRoot, .buildTree] ∨ ∃ idx, i = .pqRemoveAt idx))

/-! ## The pipeline -/

/-- R134: two BUILD_TREE commands on equal maps give equal arenas and roots and then, through BUILD_CODES, bit-identical code tables. -/
def Obligations.BuildTreeDependsOnTheMapOnly : Prop :=
  ∀ s s' : State, s.fatal = false → s'.fatal = false → s.map = s'.map →
    ∃ t t', execAll [.buildTree, .buildCodes] s = .next t ∧ execAll [.buildTree, .buildCodes] s' = .next t' ∧
      t.nodes = t'.nodes ∧ t.root = t'.root ∧ t.list = t'.list ∧ t.ct = t'.ct

/-- R103 with R101, R102: after MAP_CLEAR and n MAP_COUNTs, TOTAL and the sum of the counts are n, each count is the number of its symbol's
occurrences, and the keys stand in the order of first occurrence. -/
def Obligations.CountingCountsEveryOccurrence : Prop :=
  ∀ (s : State) (syms : List Sym), s.fatal = false → syms.length < 2 ^ 32 →
    ∃ t, execAll (.mapClear :: syms.map .mapCount) s = .next t ∧ t.total.toNat = syms.length ∧ t.countSum = syms.length ∧
      t.keys = syms.eraseDups ∧ ∀ e ∈ t.map, e.cnt.toNat = syms.count e.sym

/-- R144: after BUILD_TREE and BUILD_CODES every symbol of MAP has a code, no other symbol has one, and CT_COUNT = len(MAP). -/
def Obligations.EverySymbolOfTheMapGetsACode : Prop :=
  ∀ s : State, s.fatal = false → s.MapInv → s.map ≠ [] →
    ∃ t, execAll [.buildTree, .buildCodes] s = .next t ∧ t.ct.validCount = s.map.length ∧
      ∀ sym, (∃ c, t.ct.entry sym = some c) ↔ sym ∈ s.keys

/-- R145: the code lengths of a built table satisfy Kraft equality; with one symbol the sum is 1/2. -/
def Obligations.CodeLengthsMeetKraftEquality : Prop :=
  ∀ s : State, s.fatal = false → s.MapInv → s.map ≠ [] →
    ∃ t, execAll [.buildTree, .buildCodes] s = .next t ∧
      (t.ct.codes.map fun c => (1 / 2 : ℚ) ^ c.length).sum = if s.map.length = 1 then 1 / 2 else 1

/-- R143: after BUILD_CODES no valid code is a prefix of another, nor equal to another, whatever the arena held. (In an arena no run reaches, where
VISIT need not end, this leans on the fuel of log entry 9.) -/
def Obligations.BuiltCodesArePrefixFree : Prop :=
  ∀ s : State, s.fatal = false → ∃ t, exec .buildCodes s = .next t ∧ t.ct.PrefixFree

/-- R151: whole-sequence encode concatenates the codes in input order, and fails when some symbol has no code. -/
def Obligations.EncodeStreamConcatenatesTheCodes : Prop :=
  ∀ (s : State) (syms : List Sym), s.fatal = false → (∀ c ∈ s.ct.codes, c.length ≤ 255) →
    ((∀ x ∈ syms, s.ct.entry x ≠ none) →
      ∃ u, encodeStream syms s = some (syms.flatMap fun x => (s.ct.entry x).getD [], u)) ∧
    ((∃ x ∈ syms, s.ct.entry x = none) → encodeStream syms s = none)

/-- R157, on any table that is prefix-free: decoding the encoded stream of symbols that have codes gives the symbols, and DEC_END succeeds. -/
def Obligations.DecodeInvertsEncode : Prop :=
  ∀ (s : State) (syms : List Sym), s.fatal = false → s.ct.PrefixFree → (∀ c ∈ s.ct.codes, c ≠ [] ∧ c.length ≤ 255) →
    (∀ x ∈ syms, s.ct.entry x ≠ none) →
    ∃ bits u v, encodeStream syms s = some (bits, u) ∧ decodeStream bits u = some (syms, v)

/-- R157, the round-trip law: every non-empty input, counted, built, encoded and decoded, comes back exactly, and DEC_END succeeds. -/
def Obligations.RoundTripLaw : Prop :=
  ∀ (s : State) (syms : List Sym), s.fatal = false → syms ≠ [] → syms.length < 2 ^ 32 →
    ∃ t bits u v, execAll (.mapClear :: syms.map .mapCount ++ [.buildTree, .buildCodes]) s = .next t ∧
      encodeStream syms t = some (bits, u) ∧ decodeStream bits u = some (syms, v) ∧ v.errCode = .none

/-! ## Invariants -/

/-- R32: every step keeps the invariants of MAP and TOTAL. -/
def Obligations.StepKeepsTheMapInvariant : Prop :=
  ∀ s t : State, s.MapInv → step s = .next t → t.MapInv

/-- R37, R143, R153: every step keeps the code table prefix-free, its codes non-empty, and the candidate short of every code. -/
def Obligations.StepKeepsTheTableInvariant : Prop :=
  ∀ s t : State, s.TableInv → step s = .next t → t.TableInv

/-- R32 to R37, R133, R51, R200: every step keeps the whole invariant of the machine (the reset input's part: log entry 6). -/
def Obligations.StepKeepsTheInvariant : Prop :=
  ∀ s t : State, s.Inv → step s = .next t → t.Inv

/-- R201: the reset state meets the invariant. -/
def Obligations.ResetMeetsTheInvariant : Prop := State.reset.Inv

/-! ## The register space (20_memory, 10_state section 2) -/

/-- R42: an access that is not 32 bits wide or not at a multiple of 4 is refused, and changes no state. -/
def Obligations.NarrowOrUnalignedAccessIsRefused : Prop :=
  ∀ (s : State) (w : Width) (off : Offset) (v : Word), w ≠ .word ∨ off.toNat % 4 ≠ 0 →
    busAccess (.read w off) s = (.busError, s) ∧ busAccess (.write w off v) s = (.busError, s)

/-- R45: a read changes nothing of HTB's state, and nothing at all while no command runs. (`draws`, the count of free values, is the model's own:
log entry 3.) -/
def Obligations.ReadsHaveNoSideEffects : Prop :=
  ∀ (s : State) (w : Width) (off : Offset),
    (∃ d, (busAccess (.read w off) s).2 = { s with draws := d }) ∧ (s.pend = false → (busAccess (.read w off) s).2 = s)

/-- R41, R44, R45, R46, R212: each register stands at its offset of the register map and at no other; while no command runs, a read of it gives its
value and changes nothing; reserved offsets read 0; writes to them and to read-only registers are ignored; CMD reads 0. -/
def Obligations.RegisterMapAndReservedOffsets : Prop :=
  (∀ (r : Reg) (off : Offset),
    (r, off) ∈ [(Reg.id, 0x000#12), (.params, 0x004#12), (.cmd, 0x008#12), (.arg, 0x00C#12), (.status, 0x010#12), (.errCode, 0x014#12),
      (.resSym, 0x018#12), (.resLen, 0x01C#12), (.resNode, 0x020#12), (.mapSize, 0x024#12), (.total, 0x028#12), (.pqSize, 0x02C#12),
      (.nodeCount, 0x030#12), (.root, 0x034#12)] ∨
    (r, off) ∈ [(Reg.ctCount, 0x038#12), (.candLen, 0x03C#12), (.mapIdx, 0x040#12), (.mapEntSym, 0x044#12), (.mapEntCnt, 0x048#12),
      (.pqIdx, 0x04C#12), (.pqEnt, 0x050#12), (.pqEntKey, 0x054#12), (.nodeIdx, 0x058#12), (.nodeInfo, 0x05C#12), (.nodeFreq, 0x060#12),
      (.nodeKids, 0x064#12), (.ctSym, 0x068#12), (.ctInfo, 0x06C#12)] →
    r.offset = off) ∧
  (∀ k : Fin 8, (Reg.ctCode k).offset.toNat = 0x070 + 4 * k.val ∧ (Reg.resCode k).offset.toNat = 0x090 + 4 * k.val ∧
    (Reg.candBits k).offset.toNat = 0x0B0 + 4 * k.val) ∧
  (∀ r : Reg, Reg.ofOffset r.offset = some r) ∧ (∀ off r, Reg.ofOffset off = some r → off = r.offset) ∧
  (∀ (s : State) (r : Reg), s.resetIn = false → s.pend = false →
    busAccess (.read .word r.offset) s = (.data (s.regValue r), s)) ∧
  (∀ (s : State) (off : Offset) (v : Word), s.resetIn = false → off.toNat % 4 = 0 → 0x0D0 ≤ off.toNat →
    busAccess (.read .word off) s = (.data 0#32, s) ∧ busAccess (.write .word off v) s = (.written, s)) ∧
  (∀ (s : State) (r : Reg) (v : Word), s.resetIn = false →
    r ∉ [Reg.cmd, Reg.arg, Reg.status, Reg.mapIdx, Reg.pqIdx, Reg.nodeIdx, Reg.ctSym] →
    busAccess (.write .word r.offset v) s = (.written, s)) ∧
  ∀ s : State, s.resetIn = false → busAccess (.read .word 0x008#12) s = (.data 0#32, s)

/-- R15: the bits of STATUS, at any time. -/
def Obligations.StatusBits : Prop :=
  ∀ s : State, s.resetIn = false →
    ∃ v, busAccess (.read .word 0x010#12) s = (.data v, s) ∧ v.getLsbD 0 = s.pend ∧ v.getLsbD 1 = s.err ∧ v.getLsbD 2 = s.fatal ∧
      v.getLsbD 3 = s.overrun ∧ v.getLsbD 4 = s.root.isSome ∧ v.getLsbD 5 = s.resValid ∧ ∀ i, 6 ≤ i → v.getLsbD i = false

/-- R16: a write of v to STATUS clears ERR if v[1] = 1 and OVERRUN if v[3] = 1 and does nothing else, while a command runs too. -/
def Obligations.StatusWriteClearsStickyBits : Prop :=
  ∀ (s : State) (v : Word), s.resetIn = false →
    busAccess (.write .word 0x010#12 v) s =
      (.written, { s with
        err := if v.getLsbD 1 then false else s.err
        overrun := if v.getLsbD 3 then false else s.overrun })

/-- R210: a write of w to CMD while PEND = 0 issues a command and latches w and ARG. -/
def Obligations.CmdWriteIssuesACommand : Prop :=
  ∀ (s : State) (w : Word), s.resetIn = false → s.pend = false →
    busAccess (.write .word 0x008#12 w) s = (.written, { s with pend := true, pendCmd := w, pendArg := s.arg })

/-- R188: a write to CMD while PEND = 1 is discarded and sets OVERRUN, which is cleared only by a write to STATUS with bit 3 set, by SOFT_RESET or
by reset. -/
def Obligations.CmdWriteWhileBusyOverruns : Prop :=
  (∀ (s : State) (w : Word), s.resetIn = false → s.pend = true →
    busAccess (.write .word 0x008#12 w) s = (.written, { s with overrun := true })) ∧
  ∀ s t : State, step s = .next t → s.overrun = true → t.overrun = false →
    s.nextTurn = .assertReset ∨ (s.nextTurn = .engine ∧ s.pendCmd = 0x000000FF#32) ∨
      (s.nextTurn = .host ∧ ∃ v rest, s.host = .access (.write .word 0x010#12 v) :: rest ∧ v.getLsbD 3 = true)

/-- R212: while a command runs, nine registers read as defined; a read of any other register returns a free value, the next of the draws
(log entry 3). -/
def Obligations.ReadsWhileBusy : Prop :=
  ∀ (s : State) (r : Reg), s.resetIn = false → s.pend = true →
    (r ∈ [Reg.id, Reg.params, Reg.arg, Reg.status, Reg.mapIdx, Reg.pqIdx, Reg.nodeIdx, Reg.ctSym, Reg.cmd] →
      busAccess (.read .word r.offset) s = (.data (s.regValue r), s)) ∧
    (r ∉ [Reg.id, Reg.params, Reg.arg, Reg.status, Reg.mapIdx, Reg.pqIdx, Reg.nodeIdx, Reg.ctSym, Reg.cmd] →
      busAccess (.read .word r.offset) s = (.data (Config.freeWord s.draws), { s with draws := s.draws + 1 }))

/-- R14, R27: a write to ARG stores the word, a write to an index register stores its listed bits, and a read gives them back with the rest 0. -/
def Obligations.ArgAndIndexRegistersStoreTheirBits : Prop :=
  ∀ (s : State) (v : Word), s.resetIn = false →
    (∃ t, busAccess (.write .word 0x00C#12 v) s = (.written, t) ∧ t = { s with arg := v } ∧
      busAccess (.read .word 0x00C#12) t = (.data v, t)) ∧
    (∃ t, busAccess (.write .word 0x040#12 v) s = (.written, t) ∧ t = { s with mapIdx := v.extractLsb' 0 9 } ∧
      busAccess (.read .word 0x040#12) t = (.data (v &&& 0x1FF#32), t)) ∧
    (∃ t, busAccess (.write .word 0x04C#12 v) s = (.written, t) ∧ t = { s with pqIdx := v.extractLsb' 0 9 } ∧
      busAccess (.read .word 0x04C#12) t = (.data (v &&& 0x1FF#32), t)) ∧
    (∃ t, busAccess (.write .word 0x058#12 v) s = (.written, t) ∧ t = { s with nodeIdx := v.extractLsb' 0 9 } ∧
      busAccess (.read .word 0x058#12) t = (.data (v &&& 0x1FF#32), t)) ∧
    ∃ t, busAccess (.write .word 0x068#12 v) s = (.written, t) ∧ t = { s with ctSym := v.extractLsb' 0 8 } ∧
      busAccess (.read .word 0x068#12) t = (.data (v &&& 0xFF#32), t)

/-- R28, R29, R30, R53: the map, list and node windows, in range and out of range. R18, R19, R21 to R25: the result, size and count registers and
ROOT. (The bounds below 512 hold in every run: log entry 8.) -/
def Obligations.WindowsShowTheSelectedElement : Prop :=
  ∀ s : State,
    (∀ e, s.map[s.mapIdx.toNat]? = some e →
      (s.regValue .mapEntSym).toNat = 2 ^ 31 + e.sym.toNat ∧ s.regValue .mapEntCnt = e.cnt) ∧
    (s.map.length ≤ s.mapIdx.toNat → s.regValue .mapEntSym = 0#32 ∧ s.regValue .mapEntCnt = 0#32) ∧
    (∀ n, s.list[s.pqIdx.toNat]? = some n → n < 512 →
      (s.regValue .pqEnt).toNat = 2 ^ 31 + n ∧ ∀ r, s.nodes[n]? = some r → s.regValue .pqEntKey = r.freq) ∧
    (s.list.length ≤ s.pqIdx.toNat → s.regValue .pqEnt = 0#32 ∧ s.regValue .pqEntKey = 0#32) ∧
    (∀ sym f, s.nodes[s.nodeIdx.toNat]? = some (.leaf sym f) →
      (s.regValue .nodeInfo).toNat = 2 ^ 31 + 2 ^ 30 + sym.toNat ∧ s.regValue .nodeFreq = f ∧ s.regValue .nodeKids = 0#32) ∧
    (∀ f l r, s.nodes[s.nodeIdx.toNat]? = some (.internal f l r) → l < 512 → r < 512 →
      (s.regValue .nodeInfo).toNat = 2 ^ 31 ∧ s.regValue .nodeFreq = f ∧ (s.regValue .nodeKids).toNat = l + 2 ^ 16 * r) ∧
    (s.nodes.length ≤ s.nodeIdx.toNat →
      s.regValue .nodeInfo = 0#32 ∧ s.regValue .nodeFreq = 0#32 ∧ s.regValue .nodeKids = 0#32) ∧
    (s.regValue .resSym).toNat = s.resSym.toNat ∧ (s.regValue .resLen).toNat = s.resLen.toNat ∧
    (s.regValue .resNode).toNat = s.resNode.toNat ∧ s.regValue .total = s.total ∧
    (s.map.length < 512 → (s.regValue .mapSize).toNat = s.map.length) ∧
    (s.list.length < 512 → (s.regValue .pqSize).toNat = s.list.length) ∧
    (s.nodes.length < 512 → (s.regValue .nodeCount).toNat = s.nodes.length) ∧
    (s.root = none → s.regValue .root = 0#32) ∧
    (∀ n, s.root = some n → n < 512 → (s.regValue .root).toNat = 2 ^ 31 + n) ∧
    (s.regValue .ctCount).toNat = s.ct.codes.length

/-- R20, R26, R31: bit j of word k is code bit 32k + j in CT_CODE and CAND_BITS (of the first 255 candidate bits) and bit 32k + j of the result in
RES_CODE; CT_INFO and CAND_LEN give the lengths. -/
def Obligations.CodeWordsHoldTheBitsInOrder : Prop :=
  ∀ (s : State) (k : Fin 8) (j : Nat), j < 32 →
    (s.regValue (.resCode k)).getLsbD j = s.resCode.getLsbD (32 * k.val + j) ∧
    (∀ c, s.ct.entry s.ctSym = some c →
      (s.regValue (.ctCode k)).getLsbD j = c.getD (32 * k.val + j) false ∧
        (c.length ≤ 255 → (s.regValue .ctInfo).toNat = 2 ^ 31 + c.length)) ∧
    (s.ct.entry s.ctSym = none → s.regValue (.ctCode k) = 0#32 ∧ s.regValue .ctInfo = 0#32) ∧
    (s.regValue (.candBits k)).getLsbD j = (decide (32 * k.val + j < 255) && s.cand.getD (32 * k.val + j) false) ∧
    (s.regValue .candLen).toNat = min s.cand.length (2 ^ 32 - 1)

/-! ## Reset and progress (70_reset_and_hazards) -/

/-- R201: what the registers read as after reset, and the containers and the latch. -/
def Obligations.ResetValues : Prop :=
  (State.reset.regValue .id = 0x48544231#32 ∧ State.reset.regValue .params = 0x01FF2008#32 ∧
    ∀ r : Reg, r ≠ .id → r ≠ .params → State.reset.regValue r = 0#32) ∧
  State.reset.map = [] ∧ State.reset.list = [] ∧ State.reset.nodes = [] ∧ State.reset.root = none ∧
    (∀ x, State.reset.ct.entry x = none) ∧ State.reset.cand = [] ∧ State.reset.pend = false ∧ State.reset.pendCmd = 0#32 ∧
    State.reset.pendArg = 0#32 ∧ State.reset.fatal = false

/-- R200: asserting reset gives every piece of state its reset value, whatever was running; while it is asserted accesses are refused and the engine
has no step; after it is released accesses are served again. (The turns and the model's own fields: log entries 1 and 6.) -/
def Obligations.ResetInputHoldsTheResetState : Prop :=
  (∀ s : State, s.nextTurn = .assertReset →
    step s = .next { State.reset with resetIn := true, host := s.host, sched := s.sched.tail, replies := s.replies, draws := s.draws }) ∧
  (∀ (s : State) (a : Access), s.resetIn = true → busAccess a s = (.busError, s)) ∧
  (∀ s : State, s.resetIn = true → s.nextTurn = .engine → step s = .next { s with sched := s.sched.tail }) ∧
  (∀ s : State, s.nextTurn = .releaseReset → step s = .next { s with resetIn := false, sched := s.sched.tail })

/-- R219: an issued command completes after finitely many steps, whatever accesses the host makes meanwhile, unless reset is asserted.
(The bound is the model's form of fairness: log entry 2.) -/
def Obligations.PendingCommandCompletes : Prop :=
  ∀ s : State, s.pend = true → s.resetIn = false → .assertReset ∉ s.sched →
    ∃ k t, k ≤ s.sched.length + 1 ∧ Host.Core.run Sys2Proof.core k s = .next t ∧ t.pend = false

/-- R210, R213 (95_test_vectors ERR-15): two writes of NOP to CMD with no WAIT between them may overrun or may both run. (The
interleaving is a schedule in the state: log entry 1.) -/
def Obligations.BackToBackWritesHaveBothRuns : Prop :=
  ∀ (s : State) (rest : List HostOp), s.resetIn = false → s.pend = false → s.fatal = false → s.overrun = false →
    s.host = Prog.wr .cmd 0#32 ++ (Prog.wr .cmd 0#32 ++ rest) →
    (∃ t, Host.Core.run Sys2Proof.core 2 { s with sched := [.host, .host] } = .next t ∧ t.overrun = true ∧ t.host = rest) ∧
    ∃ t, Host.Core.run Sys2Proof.core 3 { s with sched := [.host, .engine, .host] } = .next t ∧ t.overrun = false ∧
      t.errCode = .none ∧ t.pend = true ∧ t.host = rest
end

