-- ==== Sys2Proof/Laws/List.lean ====
section
/-! SUPPORT. What insertion by key can do (41_priority_list R112). -/

namespace Sys2Proof.Machine

/-- Where `insertByKey` puts its entry: after entries whose keys are not greater, immediately before a greater one (41_priority_list R112). -/
theorem insertByKey_cases (key : NodeIdx → Count) (n : NodeIdx) (l : List NodeIdx) :
    ∃ pre post, l = pre ++ post ∧ insertByKey key n l = pre ++ n :: post ∧ (∀ m ∈ pre, key m ≤ key n) ∧
      ∀ m ∈ post.head?, key n < key m := by
  induction l with
  | nil => exact ⟨[], [], rfl, rfl, by simp, by simp⟩
  | cons m rest ih =>
    by_cases h : key n < key m
    · exact ⟨[], m :: rest, rfl, by simp [insertByKey, h], by simp, by simpa using h⟩
    · obtain ⟨pre, post, rfl, hins, hpre, hpost⟩ := ih
      exact ⟨m :: pre, post, rfl, by simp [insertByKey, h, hins], by simpa using ⟨BitVec.not_lt.mp h, hpre⟩, hpost⟩

theorem insertByKey_perm (key : NodeIdx → Count) (n : NodeIdx) (l : List NodeIdx) : (insertByKey key n l).Perm (n :: l) := by
  obtain ⟨pre, post, rfl, hins, -, -⟩ := insertByKey_cases key n l
  rw [hins]
  exact List.perm_middle

@[simp] theorem length_insertByKey (key : NodeIdx → Count) (n : NodeIdx) (l : List NodeIdx) :
    (insertByKey key n l).length = l.length + 1 := by
  simpa using (insertByKey_perm key n l).length_eq

@[simp] theorem mem_insertByKey {key : NodeIdx → Count} {n m : NodeIdx} {l : List NodeIdx} :
    m ∈ insertByKey key n l ↔ m = n ∨ m ∈ l := by
  simpa using (insertByKey_perm key n l).mem_iff

/-- Only the keys of the entries and of the new one matter. -/
theorem insertByKey_congr {key key' : NodeIdx → Count} {n : NodeIdx} {l : List NodeIdx} (hn : key n = key' n)
    (hl : ∀ m ∈ l, key m = key' m) : insertByKey key n l = insertByKey key' n l := by
  induction l with
  | nil => rfl
  | cons m rest ih =>
    rw [insertByKey, insertByKey, hn, hl m (by simp), ih fun k hk => hl k (by simp [hk])]

end Sys2Proof.Machine
end

