-- ==== Sys2Proof/Laws/State.lean ====
section
/-! SUPPORT. One lemma per field for each of the updates the commands and the step share, so that no later proof unfolds a record update. -/

namespace Sys2Proof.Machine.State

variable (s : State)

/-! `succeeded` (60_exceptions R184) -/

@[simp] theorem succeeded_arg : s.succeeded.arg = s.arg := rfl
@[simp] theorem succeeded_mapIdx : s.succeeded.mapIdx = s.mapIdx := rfl
@[simp] theorem succeeded_pqIdx : s.succeeded.pqIdx = s.pqIdx := rfl
@[simp] theorem succeeded_nodeIdx : s.succeeded.nodeIdx = s.nodeIdx := rfl
@[simp] theorem succeeded_ctSym : s.succeeded.ctSym = s.ctSym := rfl
@[simp] theorem succeeded_err : s.succeeded.err = s.err := rfl
@[simp] theorem succeeded_overrun : s.succeeded.overrun = s.overrun := rfl
@[simp] theorem succeeded_resValid : s.succeeded.resValid = s.resValid := rfl
@[simp] theorem succeeded_errCode : s.succeeded.errCode = .none := rfl
@[simp] theorem succeeded_resSym : s.succeeded.resSym = s.resSym := rfl
@[simp] theorem succeeded_resLen : s.succeeded.resLen = s.resLen := rfl
@[simp] theorem succeeded_resCode : s.succeeded.resCode = s.resCode := rfl
@[simp] theorem succeeded_resNode : s.succeeded.resNode = s.resNode := rfl
@[simp] theorem succeeded_map : s.succeeded.map = s.map := rfl
@[simp] theorem succeeded_total : s.succeeded.total = s.total := rfl
@[simp] theorem succeeded_list : s.succeeded.list = s.list := rfl
@[simp] theorem succeeded_nodes : s.succeeded.nodes = s.nodes := rfl
@[simp] theorem succeeded_root : s.succeeded.root = s.root := rfl
@[simp] theorem succeeded_ct : s.succeeded.ct = s.ct := rfl
@[simp] theorem succeeded_cand : s.succeeded.cand = s.cand := rfl
@[simp] theorem succeeded_pend : s.succeeded.pend = s.pend := rfl
@[simp] theorem succeeded_pendCmd : s.succeeded.pendCmd = s.pendCmd := rfl
@[simp] theorem succeeded_pendArg : s.succeeded.pendArg = s.pendArg := rfl
@[simp] theorem succeeded_fatal : s.succeeded.fatal = s.fatal := rfl
@[simp] theorem succeeded_resetIn : s.succeeded.resetIn = s.resetIn := rfl
@[simp] theorem succeeded_host : s.succeeded.host = s.host := rfl
@[simp] theorem succeeded_sched : s.succeeded.sched = s.sched := rfl
@[simp] theorem succeeded_replies : s.succeeded.replies = s.replies := rfl
@[simp] theorem succeeded_draws : s.succeeded.draws = s.draws := rfl

/-! `raised` (60_exceptions R182) -/

@[simp] theorem raised_arg (e : ErrCode) : (s.raised e).arg = s.arg := rfl
@[simp] theorem raised_mapIdx (e : ErrCode) : (s.raised e).mapIdx = s.mapIdx := rfl
@[simp] theorem raised_pqIdx (e : ErrCode) : (s.raised e).pqIdx = s.pqIdx := rfl
@[simp] theorem raised_nodeIdx (e : ErrCode) : (s.raised e).nodeIdx = s.nodeIdx := rfl
@[simp] theorem raised_ctSym (e : ErrCode) : (s.raised e).ctSym = s.ctSym := rfl
@[simp] theorem raised_err (e : ErrCode) : (s.raised e).err = true := rfl
@[simp] theorem raised_overrun (e : ErrCode) : (s.raised e).overrun = s.overrun := rfl
@[simp] theorem raised_resValid (e : ErrCode) : (s.raised e).resValid = s.resValid := rfl
@[simp] theorem raised_errCode (e : ErrCode) : (s.raised e).errCode = e := rfl
@[simp] theorem raised_resSym (e : ErrCode) : (s.raised e).resSym = s.resSym := rfl
@[simp] theorem raised_resLen (e : ErrCode) : (s.raised e).resLen = s.resLen := rfl
@[simp] theorem raised_resCode (e : ErrCode) : (s.raised e).resCode = s.resCode := rfl
@[simp] theorem raised_resNode (e : ErrCode) : (s.raised e).resNode = s.resNode := rfl
@[simp] theorem raised_map (e : ErrCode) : (s.raised e).map = s.map := rfl
@[simp] theorem raised_total (e : ErrCode) : (s.raised e).total = s.total := rfl
@[simp] theorem raised_list (e : ErrCode) : (s.raised e).list = s.list := rfl
@[simp] theorem raised_nodes (e : ErrCode) : (s.raised e).nodes = s.nodes := rfl
@[simp] theorem raised_root (e : ErrCode) : (s.raised e).root = s.root := rfl
@[simp] theorem raised_ct (e : ErrCode) : (s.raised e).ct = s.ct := rfl
@[simp] theorem raised_cand (e : ErrCode) : (s.raised e).cand = s.cand := rfl
@[simp] theorem raised_pend (e : ErrCode) : (s.raised e).pend = s.pend := rfl
@[simp] theorem raised_pendCmd (e : ErrCode) : (s.raised e).pendCmd = s.pendCmd := rfl
@[simp] theorem raised_pendArg (e : ErrCode) : (s.raised e).pendArg = s.pendArg := rfl
@[simp] theorem raised_fatal (e : ErrCode) : (s.raised e).fatal = (s.fatal || e.isFatal) := rfl
@[simp] theorem raised_resetIn (e : ErrCode) : (s.raised e).resetIn = s.resetIn := rfl
@[simp] theorem raised_host (e : ErrCode) : (s.raised e).host = s.host := rfl
@[simp] theorem raised_sched (e : ErrCode) : (s.raised e).sched = s.sched := rfl
@[simp] theorem raised_replies (e : ErrCode) : (s.raised e).replies = s.replies := rfl
@[simp] theorem raised_draws (e : ErrCode) : (s.raised e).draws = s.draws := rfl

/-! `alloc` (41_priority_list R115, R116) -/

@[simp] theorem alloc_arg (r : Node) : (s.alloc r).arg = s.arg := rfl
@[simp] theorem alloc_mapIdx (r : Node) : (s.alloc r).mapIdx = s.mapIdx := rfl
@[simp] theorem alloc_pqIdx (r : Node) : (s.alloc r).pqIdx = s.pqIdx := rfl
@[simp] theorem alloc_nodeIdx (r : Node) : (s.alloc r).nodeIdx = s.nodeIdx := rfl
@[simp] theorem alloc_ctSym (r : Node) : (s.alloc r).ctSym = s.ctSym := rfl
@[simp] theorem alloc_err (r : Node) : (s.alloc r).err = s.err := rfl
@[simp] theorem alloc_overrun (r : Node) : (s.alloc r).overrun = s.overrun := rfl
@[simp] theorem alloc_resValid (r : Node) : (s.alloc r).resValid = s.resValid := rfl
@[simp] theorem alloc_errCode (r : Node) : (s.alloc r).errCode = s.errCode := rfl
@[simp] theorem alloc_resSym (r : Node) : (s.alloc r).resSym = s.resSym := rfl
@[simp] theorem alloc_resLen (r : Node) : (s.alloc r).resLen = s.resLen := rfl
@[simp] theorem alloc_resCode (r : Node) : (s.alloc r).resCode = s.resCode := rfl
@[simp] theorem alloc_resNode (r : Node) : (s.alloc r).resNode = s.resNode := rfl
@[simp] theorem alloc_map (r : Node) : (s.alloc r).map = s.map := rfl
@[simp] theorem alloc_total (r : Node) : (s.alloc r).total = s.total := rfl
@[simp] theorem alloc_list (r : Node) : (s.alloc r).list = s.list := rfl
@[simp] theorem alloc_nodes (r : Node) : (s.alloc r).nodes = s.nodes ++ [r] := rfl
@[simp] theorem alloc_root (r : Node) : (s.alloc r).root = s.root := rfl
@[simp] theorem alloc_ct (r : Node) : (s.alloc r).ct = s.ct := rfl
@[simp] theorem alloc_cand (r : Node) : (s.alloc r).cand = s.cand := rfl
@[simp] theorem alloc_pend (r : Node) : (s.alloc r).pend = s.pend := rfl
@[simp] theorem alloc_pendCmd (r : Node) : (s.alloc r).pendCmd = s.pendCmd := rfl
@[simp] theorem alloc_pendArg (r : Node) : (s.alloc r).pendArg = s.pendArg := rfl
@[simp] theorem alloc_fatal (r : Node) : (s.alloc r).fatal = s.fatal := rfl
@[simp] theorem alloc_resetIn (r : Node) : (s.alloc r).resetIn = s.resetIn := rfl
@[simp] theorem alloc_host (r : Node) : (s.alloc r).host = s.host := rfl
@[simp] theorem alloc_sched (r : Node) : (s.alloc r).sched = s.sched := rfl
@[simp] theorem alloc_replies (r : Node) : (s.alloc r).replies = s.replies := rfl
@[simp] theorem alloc_draws (r : Node) : (s.alloc r).draws = s.draws := rfl

/-! `lInsert` (41_priority_list R112) -/

@[simp] theorem lInsert_arg (n : NodeIdx) : (s.lInsert n).arg = s.arg := rfl
@[simp] theorem lInsert_mapIdx (n : NodeIdx) : (s.lInsert n).mapIdx = s.mapIdx := rfl
@[simp] theorem lInsert_pqIdx (n : NodeIdx) : (s.lInsert n).pqIdx = s.pqIdx := rfl
@[simp] theorem lInsert_nodeIdx (n : NodeIdx) : (s.lInsert n).nodeIdx = s.nodeIdx := rfl
@[simp] theorem lInsert_ctSym (n : NodeIdx) : (s.lInsert n).ctSym = s.ctSym := rfl
@[simp] theorem lInsert_err (n : NodeIdx) : (s.lInsert n).err = s.err := rfl
@[simp] theorem lInsert_overrun (n : NodeIdx) : (s.lInsert n).overrun = s.overrun := rfl
@[simp] theorem lInsert_resValid (n : NodeIdx) : (s.lInsert n).resValid = s.resValid := rfl
@[simp] theorem lInsert_errCode (n : NodeIdx) : (s.lInsert n).errCode = s.errCode := rfl
@[simp] theorem lInsert_resSym (n : NodeIdx) : (s.lInsert n).resSym = s.resSym := rfl
@[simp] theorem lInsert_resLen (n : NodeIdx) : (s.lInsert n).resLen = s.resLen := rfl
@[simp] theorem lInsert_resCode (n : NodeIdx) : (s.lInsert n).resCode = s.resCode := rfl
@[simp] theorem lInsert_resNode (n : NodeIdx) : (s.lInsert n).resNode = s.resNode := rfl
@[simp] theorem lInsert_map (n : NodeIdx) : (s.lInsert n).map = s.map := rfl
@[simp] theorem lInsert_total (n : NodeIdx) : (s.lInsert n).total = s.total := rfl
@[simp] theorem lInsert_list (n : NodeIdx) : (s.lInsert n).list = insertByKey s.key n s.list := rfl
@[simp] theorem lInsert_nodes (n : NodeIdx) : (s.lInsert n).nodes = s.nodes := rfl
@[simp] theorem lInsert_root (n : NodeIdx) : (s.lInsert n).root = s.root := rfl
@[simp] theorem lInsert_ct (n : NodeIdx) : (s.lInsert n).ct = s.ct := rfl
@[simp] theorem lInsert_cand (n : NodeIdx) : (s.lInsert n).cand = s.cand := rfl
@[simp] theorem lInsert_pend (n : NodeIdx) : (s.lInsert n).pend = s.pend := rfl
@[simp] theorem lInsert_pendCmd (n : NodeIdx) : (s.lInsert n).pendCmd = s.pendCmd := rfl
@[simp] theorem lInsert_pendArg (n : NodeIdx) : (s.lInsert n).pendArg = s.pendArg := rfl
@[simp] theorem lInsert_fatal (n : NodeIdx) : (s.lInsert n).fatal = s.fatal := rfl
@[simp] theorem lInsert_resetIn (n : NodeIdx) : (s.lInsert n).resetIn = s.resetIn := rfl
@[simp] theorem lInsert_host (n : NodeIdx) : (s.lInsert n).host = s.host := rfl
@[simp] theorem lInsert_sched (n : NodeIdx) : (s.lInsert n).sched = s.sched := rfl
@[simp] theorem lInsert_replies (n : NodeIdx) : (s.lInsert n).replies = s.replies := rfl
@[simp] theorem lInsert_draws (n : NodeIdx) : (s.lInsert n).draws = s.draws := rfl

/-! `lRemoveAt` (41_priority_list R113) -/

@[simp] theorem lRemoveAt_arg (i : Nat) : (s.lRemoveAt i).arg = s.arg := rfl
@[simp] theorem lRemoveAt_mapIdx (i : Nat) : (s.lRemoveAt i).mapIdx = s.mapIdx := rfl
@[simp] theorem lRemoveAt_pqIdx (i : Nat) : (s.lRemoveAt i).pqIdx = s.pqIdx := rfl
@[simp] theorem lRemoveAt_nodeIdx (i : Nat) : (s.lRemoveAt i).nodeIdx = s.nodeIdx := rfl
@[simp] theorem lRemoveAt_ctSym (i : Nat) : (s.lRemoveAt i).ctSym = s.ctSym := rfl
@[simp] theorem lRemoveAt_err (i : Nat) : (s.lRemoveAt i).err = s.err := rfl
@[simp] theorem lRemoveAt_overrun (i : Nat) : (s.lRemoveAt i).overrun = s.overrun := rfl
@[simp] theorem lRemoveAt_resValid (i : Nat) : (s.lRemoveAt i).resValid = s.resValid := rfl
@[simp] theorem lRemoveAt_errCode (i : Nat) : (s.lRemoveAt i).errCode = s.errCode := rfl
@[simp] theorem lRemoveAt_resSym (i : Nat) : (s.lRemoveAt i).resSym = s.resSym := rfl
@[simp] theorem lRemoveAt_resLen (i : Nat) : (s.lRemoveAt i).resLen = s.resLen := rfl
@[simp] theorem lRemoveAt_resCode (i : Nat) : (s.lRemoveAt i).resCode = s.resCode := rfl
@[simp] theorem lRemoveAt_resNode (i : Nat) : (s.lRemoveAt i).resNode = s.resNode := rfl
@[simp] theorem lRemoveAt_map (i : Nat) : (s.lRemoveAt i).map = s.map := rfl
@[simp] theorem lRemoveAt_total (i : Nat) : (s.lRemoveAt i).total = s.total := rfl
@[simp] theorem lRemoveAt_list (i : Nat) : (s.lRemoveAt i).list = s.list.eraseIdx i := rfl
@[simp] theorem lRemoveAt_nodes (i : Nat) : (s.lRemoveAt i).nodes = s.nodes := rfl
@[simp] theorem lRemoveAt_root (i : Nat) : (s.lRemoveAt i).root = s.root := rfl
@[simp] theorem lRemoveAt_ct (i : Nat) : (s.lRemoveAt i).ct = s.ct := rfl
@[simp] theorem lRemoveAt_cand (i : Nat) : (s.lRemoveAt i).cand = s.cand := rfl
@[simp] theorem lRemoveAt_pend (i : Nat) : (s.lRemoveAt i).pend = s.pend := rfl
@[simp] theorem lRemoveAt_pendCmd (i : Nat) : (s.lRemoveAt i).pendCmd = s.pendCmd := rfl
@[simp] theorem lRemoveAt_pendArg (i : Nat) : (s.lRemoveAt i).pendArg = s.pendArg := rfl
@[simp] theorem lRemoveAt_fatal (i : Nat) : (s.lRemoveAt i).fatal = s.fatal := rfl
@[simp] theorem lRemoveAt_resetIn (i : Nat) : (s.lRemoveAt i).resetIn = s.resetIn := rfl
@[simp] theorem lRemoveAt_host (i : Nat) : (s.lRemoveAt i).host = s.host := rfl
@[simp] theorem lRemoveAt_sched (i : Nat) : (s.lRemoveAt i).sched = s.sched := rfl
@[simp] theorem lRemoveAt_replies (i : Nat) : (s.lRemoveAt i).replies = s.replies := rfl
@[simp] theorem lRemoveAt_draws (i : Nat) : (s.lRemoveAt i).draws = s.draws := rfl

/-! `clearTree` (41_priority_list R118) -/

@[simp] theorem clearTree_arg : s.clearTree.arg = s.arg := rfl
@[simp] theorem clearTree_mapIdx : s.clearTree.mapIdx = s.mapIdx := rfl
@[simp] theorem clearTree_pqIdx : s.clearTree.pqIdx = s.pqIdx := rfl
@[simp] theorem clearTree_nodeIdx : s.clearTree.nodeIdx = s.nodeIdx := rfl
@[simp] theorem clearTree_ctSym : s.clearTree.ctSym = s.ctSym := rfl
@[simp] theorem clearTree_err : s.clearTree.err = s.err := rfl
@[simp] theorem clearTree_overrun : s.clearTree.overrun = s.overrun := rfl
@[simp] theorem clearTree_resValid : s.clearTree.resValid = s.resValid := rfl
@[simp] theorem clearTree_errCode : s.clearTree.errCode = s.errCode := rfl
@[simp] theorem clearTree_resSym : s.clearTree.resSym = s.resSym := rfl
@[simp] theorem clearTree_resLen : s.clearTree.resLen = s.resLen := rfl
@[simp] theorem clearTree_resCode : s.clearTree.resCode = s.resCode := rfl
@[simp] theorem clearTree_resNode : s.clearTree.resNode = s.resNode := rfl
@[simp] theorem clearTree_map : s.clearTree.map = s.map := rfl
@[simp] theorem clearTree_total : s.clearTree.total = s.total := rfl
@[simp] theorem clearTree_list : s.clearTree.list = [] := rfl
@[simp] theorem clearTree_nodes : s.clearTree.nodes = [] := rfl
@[simp] theorem clearTree_root : s.clearTree.root = none := rfl
@[simp] theorem clearTree_ct : s.clearTree.ct = s.ct := rfl
@[simp] theorem clearTree_cand : s.clearTree.cand = s.cand := rfl
@[simp] theorem clearTree_pend : s.clearTree.pend = s.pend := rfl
@[simp] theorem clearTree_pendCmd : s.clearTree.pendCmd = s.pendCmd := rfl
@[simp] theorem clearTree_pendArg : s.clearTree.pendArg = s.pendArg := rfl
@[simp] theorem clearTree_fatal : s.clearTree.fatal = s.fatal := rfl
@[simp] theorem clearTree_resetIn : s.clearTree.resetIn = s.resetIn := rfl
@[simp] theorem clearTree_host : s.clearTree.host = s.host := rfl
@[simp] theorem clearTree_sched : s.clearTree.sched = s.sched := rfl
@[simp] theorem clearTree_replies : s.clearTree.replies = s.replies := rfl
@[simp] theorem clearTree_draws : s.clearTree.draws = s.draws := rfl

/-! `returnNode` (10_state R21) -/

@[simp] theorem returnNode_arg (n : NodeIdx) : (s.returnNode n).arg = s.arg := rfl
@[simp] theorem returnNode_mapIdx (n : NodeIdx) : (s.returnNode n).mapIdx = s.mapIdx := rfl
@[simp] theorem returnNode_pqIdx (n : NodeIdx) : (s.returnNode n).pqIdx = s.pqIdx := rfl
@[simp] theorem returnNode_nodeIdx (n : NodeIdx) : (s.returnNode n).nodeIdx = s.nodeIdx := rfl
@[simp] theorem returnNode_ctSym (n : NodeIdx) : (s.returnNode n).ctSym = s.ctSym := rfl
@[simp] theorem returnNode_err (n : NodeIdx) : (s.returnNode n).err = s.err := rfl
@[simp] theorem returnNode_overrun (n : NodeIdx) : (s.returnNode n).overrun = s.overrun := rfl
@[simp] theorem returnNode_resValid (n : NodeIdx) : (s.returnNode n).resValid = s.resValid := rfl
@[simp] theorem returnNode_errCode (n : NodeIdx) : (s.returnNode n).errCode = s.errCode := rfl
@[simp] theorem returnNode_resSym (n : NodeIdx) : (s.returnNode n).resSym = s.resSym := rfl
@[simp] theorem returnNode_resLen (n : NodeIdx) : (s.returnNode n).resLen = s.resLen := rfl
@[simp] theorem returnNode_resCode (n : NodeIdx) : (s.returnNode n).resCode = s.resCode := rfl
@[simp] theorem returnNode_resNode (n : NodeIdx) : (s.returnNode n).resNode = BitVec.ofNat 9 n := rfl
@[simp] theorem returnNode_map (n : NodeIdx) : (s.returnNode n).map = s.map := rfl
@[simp] theorem returnNode_total (n : NodeIdx) : (s.returnNode n).total = s.total := rfl
@[simp] theorem returnNode_list (n : NodeIdx) : (s.returnNode n).list = s.list := rfl
@[simp] theorem returnNode_nodes (n : NodeIdx) : (s.returnNode n).nodes = s.nodes := rfl
@[simp] theorem returnNode_root (n : NodeIdx) : (s.returnNode n).root = s.root := rfl
@[simp] theorem returnNode_ct (n : NodeIdx) : (s.returnNode n).ct = s.ct := rfl
@[simp] theorem returnNode_cand (n : NodeIdx) : (s.returnNode n).cand = s.cand := rfl
@[simp] theorem returnNode_pend (n : NodeIdx) : (s.returnNode n).pend = s.pend := rfl
@[simp] theorem returnNode_pendCmd (n : NodeIdx) : (s.returnNode n).pendCmd = s.pendCmd := rfl
@[simp] theorem returnNode_pendArg (n : NodeIdx) : (s.returnNode n).pendArg = s.pendArg := rfl
@[simp] theorem returnNode_fatal (n : NodeIdx) : (s.returnNode n).fatal = s.fatal := rfl
@[simp] theorem returnNode_resetIn (n : NodeIdx) : (s.returnNode n).resetIn = s.resetIn := rfl
@[simp] theorem returnNode_host (n : NodeIdx) : (s.returnNode n).host = s.host := rfl
@[simp] theorem returnNode_sched (n : NodeIdx) : (s.returnNode n).sched = s.sched := rfl
@[simp] theorem returnNode_replies (n : NodeIdx) : (s.returnNode n).replies = s.replies := rfl
@[simp] theorem returnNode_draws (n : NodeIdx) : (s.returnNode n).draws = s.draws := rfl

/-! `holdRoot` (42_tree_builder R131) -/

@[simp] theorem holdRoot_arg (n : NodeIdx) : (s.holdRoot n).arg = s.arg := rfl
@[simp] theorem holdRoot_mapIdx (n : NodeIdx) : (s.holdRoot n).mapIdx = s.mapIdx := rfl
@[simp] theorem holdRoot_pqIdx (n : NodeIdx) : (s.holdRoot n).pqIdx = s.pqIdx := rfl
@[simp] theorem holdRoot_nodeIdx (n : NodeIdx) : (s.holdRoot n).nodeIdx = s.nodeIdx := rfl
@[simp] theorem holdRoot_ctSym (n : NodeIdx) : (s.holdRoot n).ctSym = s.ctSym := rfl
@[simp] theorem holdRoot_err (n : NodeIdx) : (s.holdRoot n).err = s.err := rfl
@[simp] theorem holdRoot_overrun (n : NodeIdx) : (s.holdRoot n).overrun = s.overrun := rfl
@[simp] theorem holdRoot_resValid (n : NodeIdx) : (s.holdRoot n).resValid = s.resValid := rfl
@[simp] theorem holdRoot_errCode (n : NodeIdx) : (s.holdRoot n).errCode = s.errCode := rfl
@[simp] theorem holdRoot_resSym (n : NodeIdx) : (s.holdRoot n).resSym = s.resSym := rfl
@[simp] theorem holdRoot_resLen (n : NodeIdx) : (s.holdRoot n).resLen = s.resLen := rfl
@[simp] theorem holdRoot_resCode (n : NodeIdx) : (s.holdRoot n).resCode = s.resCode := rfl
@[simp] theorem holdRoot_resNode (n : NodeIdx) : (s.holdRoot n).resNode = s.resNode := rfl
@[simp] theorem holdRoot_map (n : NodeIdx) : (s.holdRoot n).map = s.map := rfl
@[simp] theorem holdRoot_total (n : NodeIdx) : (s.holdRoot n).total = s.total := rfl
@[simp] theorem holdRoot_list (n : NodeIdx) : (s.holdRoot n).list = s.list := rfl
@[simp] theorem holdRoot_nodes (n : NodeIdx) : (s.holdRoot n).nodes = s.nodes := rfl
@[simp] theorem holdRoot_root (n : NodeIdx) : (s.holdRoot n).root = some n := rfl
@[simp] theorem holdRoot_ct (n : NodeIdx) : (s.holdRoot n).ct = s.ct := rfl
@[simp] theorem holdRoot_cand (n : NodeIdx) : (s.holdRoot n).cand = s.cand := rfl
@[simp] theorem holdRoot_pend (n : NodeIdx) : (s.holdRoot n).pend = s.pend := rfl
@[simp] theorem holdRoot_pendCmd (n : NodeIdx) : (s.holdRoot n).pendCmd = s.pendCmd := rfl
@[simp] theorem holdRoot_pendArg (n : NodeIdx) : (s.holdRoot n).pendArg = s.pendArg := rfl
@[simp] theorem holdRoot_fatal (n : NodeIdx) : (s.holdRoot n).fatal = s.fatal := rfl
@[simp] theorem holdRoot_resetIn (n : NodeIdx) : (s.holdRoot n).resetIn = s.resetIn := rfl
@[simp] theorem holdRoot_host (n : NodeIdx) : (s.holdRoot n).host = s.host := rfl
@[simp] theorem holdRoot_sched (n : NodeIdx) : (s.holdRoot n).sched = s.sched := rfl
@[simp] theorem holdRoot_replies (n : NodeIdx) : (s.holdRoot n).replies = s.replies := rfl
@[simp] theorem holdRoot_draws (n : NodeIdx) : (s.holdRoot n).draws = s.draws := rfl

/-! `retire` (70_reset R211) -/

@[simp] theorem retire_arg : s.retire.arg = s.arg := rfl
@[simp] theorem retire_mapIdx : s.retire.mapIdx = s.mapIdx := rfl
@[simp] theorem retire_pqIdx : s.retire.pqIdx = s.pqIdx := rfl
@[simp] theorem retire_nodeIdx : s.retire.nodeIdx = s.nodeIdx := rfl
@[simp] theorem retire_ctSym : s.retire.ctSym = s.ctSym := rfl
@[simp] theorem retire_err : s.retire.err = s.err := rfl
@[simp] theorem retire_overrun : s.retire.overrun = s.overrun := rfl
@[simp] theorem retire_resValid : s.retire.resValid = s.resValid := rfl
@[simp] theorem retire_errCode : s.retire.errCode = s.errCode := rfl
@[simp] theorem retire_resSym : s.retire.resSym = s.resSym := rfl
@[simp] theorem retire_resLen : s.retire.resLen = s.resLen := rfl
@[simp] theorem retire_resCode : s.retire.resCode = s.resCode := rfl
@[simp] theorem retire_resNode : s.retire.resNode = s.resNode := rfl
@[simp] theorem retire_map : s.retire.map = s.map := rfl
@[simp] theorem retire_total : s.retire.total = s.total := rfl
@[simp] theorem retire_list : s.retire.list = s.list := rfl
@[simp] theorem retire_nodes : s.retire.nodes = s.nodes := rfl
@[simp] theorem retire_root : s.retire.root = s.root := rfl
@[simp] theorem retire_ct : s.retire.ct = s.ct := rfl
@[simp] theorem retire_cand : s.retire.cand = s.cand := rfl
@[simp] theorem retire_pend : s.retire.pend = false := rfl
@[simp] theorem retire_pendCmd : s.retire.pendCmd = s.pendCmd := rfl
@[simp] theorem retire_pendArg : s.retire.pendArg = s.pendArg := rfl
@[simp] theorem retire_fatal : s.retire.fatal = s.fatal := rfl
@[simp] theorem retire_resetIn : s.retire.resetIn = s.resetIn := rfl
@[simp] theorem retire_host : s.retire.host = s.host := rfl
@[simp] theorem retire_sched : s.retire.sched = s.sched := rfl
@[simp] theorem retire_replies : s.retire.replies = s.replies := rfl
@[simp] theorem retire_draws : s.retire.draws = s.draws := rfl

/-! `popSched` (20_memory R47) -/

@[simp] theorem popSched_arg : s.popSched.arg = s.arg := rfl
@[simp] theorem popSched_mapIdx : s.popSched.mapIdx = s.mapIdx := rfl
@[simp] theorem popSched_pqIdx : s.popSched.pqIdx = s.pqIdx := rfl
@[simp] theorem popSched_nodeIdx : s.popSched.nodeIdx = s.nodeIdx := rfl
@[simp] theorem popSched_ctSym : s.popSched.ctSym = s.ctSym := rfl
@[simp] theorem popSched_err : s.popSched.err = s.err := rfl
@[simp] theorem popSched_overrun : s.popSched.overrun = s.overrun := rfl
@[simp] theorem popSched_resValid : s.popSched.resValid = s.resValid := rfl
@[simp] theorem popSched_errCode : s.popSched.errCode = s.errCode := rfl
@[simp] theorem popSched_resSym : s.popSched.resSym = s.resSym := rfl
@[simp] theorem popSched_resLen : s.popSched.resLen = s.resLen := rfl
@[simp] theorem popSched_resCode : s.popSched.resCode = s.resCode := rfl
@[simp] theorem popSched_resNode : s.popSched.resNode = s.resNode := rfl
@[simp] theorem popSched_map : s.popSched.map = s.map := rfl
@[simp] theorem popSched_total : s.popSched.total = s.total := rfl
@[simp] theorem popSched_list : s.popSched.list = s.list := rfl
@[simp] theorem popSched_nodes : s.popSched.nodes = s.nodes := rfl
@[simp] theorem popSched_root : s.popSched.root = s.root := rfl
@[simp] theorem popSched_ct : s.popSched.ct = s.ct := rfl
@[simp] theorem popSched_cand : s.popSched.cand = s.cand := rfl
@[simp] theorem popSched_pend : s.popSched.pend = s.pend := rfl
@[simp] theorem popSched_pendCmd : s.popSched.pendCmd = s.pendCmd := rfl
@[simp] theorem popSched_pendArg : s.popSched.pendArg = s.pendArg := rfl
@[simp] theorem popSched_fatal : s.popSched.fatal = s.fatal := rfl
@[simp] theorem popSched_resetIn : s.popSched.resetIn = s.resetIn := rfl
@[simp] theorem popSched_host : s.popSched.host = s.host := rfl
@[simp] theorem popSched_sched : s.popSched.sched = s.sched.tail := rfl
@[simp] theorem popSched_replies : s.popSched.replies = s.replies := rfl
@[simp] theorem popSched_draws : s.popSched.draws = s.draws := rfl

end Sys2Proof.Machine.State
end

