-- ==== Sys2Proof/Laws/Arena.lean ====
section
/-! SUPPORT. Reading the arena: a record once allocated is never changed (10_state R34), and the list primitives leave the arena alone. -/

namespace Sys2Proof.Machine.State

variable (s : State)

theorem node_of_getElem? {n : NodeIdx} {r : Node} (h : s.nodes[n]? = some r) : s.node n = r := by
  simp [node, h]

theorem getElem?_of_lt {n : NodeIdx} (h : n < s.nodeCount) : s.nodes[n]? = some (s.node n) := by
  have h' : n < s.nodes.length := h
  simp [node, h']

/-- Only the arena decides what a record is. -/
theorem node_congr {s t : State} (h : s.nodes = t.nodes) : s.node = t.node := by
  funext n
  simp [node, h]

theorem key_congr {s t : State} (h : s.nodes = t.nodes) : s.key = t.key := by
  funext n
  simp [key, node_congr h]

@[simp] theorem nodeCount_alloc (r : Node) : (s.alloc r).nodeCount = s.nodeCount + 1 := by
  simp [nodeCount]

theorem node_alloc_of_lt (r : Node) {n : NodeIdx} (h : n < s.nodeCount) : (s.alloc r).node n = s.node n := by
  have h' : n < s.nodes.length := h
  simp [node, List.getElem?_append_left h']

@[simp] theorem node_alloc_self (r : Node) : (s.alloc r).node s.nodeCount = r := by
  simp [node, nodeCount]

theorem key_alloc_of_lt (r : Node) {n : NodeIdx} (h : n < s.nodeCount) : (s.alloc r).key n = s.key n := by
  simp [key, node_alloc_of_lt s r h]

@[simp] theorem key_alloc_self (r : Node) : (s.alloc r).key s.nodeCount = r.freq := by
  simp [key]

@[simp] theorem key_lInsert (n : NodeIdx) : (s.lInsert n).key = s.key := key_congr rfl
@[simp] theorem key_lRemoveAt (i : Nat) : (s.lRemoveAt i).key = s.key := key_congr rfl
@[simp] theorem key_returnNode (n : NodeIdx) : (s.returnNode n).key = s.key := key_congr rfl
@[simp] theorem key_holdRoot (n : NodeIdx) : (s.holdRoot n).key = s.key := key_congr rfl
@[simp] theorem key_succeeded : s.succeeded.key = s.key := key_congr rfl

@[simp] theorem lSize_lInsert (n : NodeIdx) : (s.lInsert n).lSize = s.lSize + 1 := by
  simp [lSize]

@[simp] theorem lSize_lRemoveAt (i : Nat) (h : i < s.lSize) : (s.lRemoveAt i).lSize = s.lSize - 1 := by
  have h' : i < s.list.length := h
  simp [lSize, List.length_eraseIdx_of_lt h']

/-- The whole effect of one merge on a list of at least two entries (42_tree_builder R130). -/
theorem mergeStep_of_list {l r : NodeIdx} {rest : List NodeIdx} (h : s.list = l :: r :: rest) :
    s.mergeStep =
      { s with
        nodes := s.nodes ++ [.internal (s.key l + s.key r) l r]
        list := insertByKey (s.alloc (.internal (s.key l + s.key r) l r)).key s.nodeCount rest
        resNode := BitVec.ofNat 9 s.nodeCount } := by
  simp only [mergeStep, h]
  have hk : (s.lRemoveFirst.lRemoveFirst.allocInternal l r).key = (s.alloc (.internal (s.key l + s.key r) l r)).key :=
    key_congr rfl
  simp [lInsert, returnNode, hk]
  simp [allocInternal, lRemoveFirst, lRemoveAt, alloc, h, key, node]

/-- Each merge shortens the list by one (42_tree_builder R130). -/
theorem lSize_mergeStep (h : 1 < s.lSize) : s.mergeStep.lSize + 1 = s.lSize := by
  have hl : 1 < s.list.length := h
  match hs : s.list with
  | [] => simp [hs] at hl
  | [_] => simp [hs] at hl
  | l :: r :: rest => simp [mergeStep_of_list s hs, lSize, hs]

/-- What one merge leaves alone, whatever the list (42_tree_builder R130). -/
theorem mergeStep_frame :
    s.mergeStep = { s with nodes := s.mergeStep.nodes, list := s.mergeStep.list, resNode := s.mergeStep.resNode } := by
  match hs : s.list with
  | [] => rw [show s.mergeStep = s by simp [mergeStep, hs]]
  | [_] => rw [show s.mergeStep = s by simp [mergeStep, hs]]
  | l :: r :: rest => rw [mergeStep_of_list s hs]

/-- The loop ends with at most one entry when its fuel is at least the list's length (42_tree_builder R132). -/
theorem lSize_mergeWhile (fuel : Nat) (s : State) (h : s.lSize ≤ fuel) : (mergeWhile fuel s).lSize ≤ 1 := by
  induction fuel generalizing s with
  | zero => simpa [mergeWhile] using Nat.le_trans h (Nat.zero_le 1)
  | succ fuel ih =>
    rw [mergeWhile]
    split
    · rename_i hs
      exact ih _ (by have := lSize_mergeStep s hs; omega)
    · omega

/-- What the loop leaves alone (42_tree_builder R132). -/
theorem mergeWhile_frame (fuel : Nat) (s : State) :
    mergeWhile fuel s =
      { s with nodes := (mergeWhile fuel s).nodes, list := (mergeWhile fuel s).list, resNode := (mergeWhile fuel s).resNode } := by
  induction fuel generalizing s with
  | zero => rfl
  | succ fuel ih =>
    rw [mergeWhile]
    split
    · rw [ih s.mergeStep, mergeStep_frame s]
    · rfl

/-- One leaf loaded: its record is appended and its index inserted (41_priority_list R117). -/
theorem loadLeaf_eq (e : MapEntry) :
    s.loadLeaf e =
      { s with
        nodes := s.nodes ++ [.leaf e.sym e.cnt]
        list := insertByKey (s.alloc (.leaf e.sym e.cnt)).key s.nodeCount s.list } := rfl

/-- What the load leaves alone (41_priority_list R117). -/
theorem loadLeaves_frame :
    s.loadLeaves = { s with nodes := s.loadLeaves.nodes, list := s.loadLeaves.list, root := none } := by
  have key : ∀ (es : List MapEntry) (t : State),
      es.foldl loadLeaf t = { t with nodes := (es.foldl loadLeaf t).nodes, list := (es.foldl loadLeaf t).list } := by
    intro es
    induction es with
    | nil => intro t; rfl
    | cons e es ih => intro t; rw [List.foldl_cons, ih, loadLeaf_eq]
  rw [loadLeaves, key]
  rfl

/-- The arena after a load: leaf j is MAP's entry j (41_priority_list R117). -/
theorem loadLeaves_nodes : s.loadLeaves.nodes = s.map.map fun e => .leaf e.sym e.cnt := by
  have key : ∀ (es : List MapEntry) (t : State),
      (es.foldl loadLeaf t).nodes = t.nodes ++ es.map fun e => .leaf e.sym e.cnt := by
    intro es
    induction es with
    | nil => intro t; simp
    | cons e es ih => intro t; rw [List.foldl_cons, ih, loadLeaf_eq]; simp
  rw [loadLeaves, key]
  simp

/-- The list after a load has one entry per MAP entry (41_priority_list R117). -/
theorem lSize_loadLeaves : s.loadLeaves.lSize = s.map.length := by
  have key : ∀ (es : List MapEntry) (t : State), (es.foldl loadLeaf t).lSize = t.lSize + es.length := by
    intro es
    induction es with
    | nil => intro t; simp
    | cons e es ih => intro t; rw [List.foldl_cons, ih, loadLeaf_eq]; simp [lSize]; omega
  rw [loadLeaves, key]
  simp [lSize]

end Sys2Proof.Machine.State
end

