-- ==== Sys2Proof/Laws/Bits.lean ====
section
/-! SUPPORT. The bits of a packed code (10_state R20) and of a flag in STATUS (R15). -/

namespace Sys2Proof.Machine

theorem getLsbD_packBits (c : Bits) (i : Nat) (h : i < 256) : (packBits c).getLsbD i = c.getD i false := by
  simp [packBits, h]

theorem getLsbD_wordOf (v : BitVec 256) (k : Fin 8) (i : Nat) (h : i < 32) :
    (wordOf v k).getLsbD i = v.getLsbD (32 * k.val + i) := by
  simp [wordOf, h]

/-- Reading back as many bits as a code has gives the code (10_state R20). -/
theorem map_getLsbD_packBits (c : Bits) (h : c.length ≤ 256) : (List.range c.length).map (packBits c).getLsbD = c := by
  apply List.ext_getElem (by simp)
  intro i hi _
  have hi' : i < c.length := by simpa using hi
  simp [getLsbD_packBits c i (by omega), hi']

/-- A flag shows at its own bit only. -/
theorem getLsbD_bitAt (b : Bool) (i j : Nat) : (bitAt b i).getLsbD j = (decide (j < 32) && decide (j = i) && b) := by
  cases b <;> simp [bitAt]
  by_cases h1 : j < 32 <;> simp [h1]
  by_cases h2 : j < i <;> simp [h2]
  · omega
  · by_cases h3 : j = i
    · subst h3; simp
    · simp [h3]; omega

/-- A bit of STATUS is that bit of one of its flags (10_state R15). -/
theorem getLsbD_statusWord (s : State) (j : Nat) :
    (statusWord s).getLsbD j =
      ((bitAt s.pend 0).getLsbD j || (bitAt s.err 1).getLsbD j || (bitAt s.fatal 2).getLsbD j || (bitAt s.overrun 3).getLsbD j ||
        (bitAt s.root.isSome 4).getLsbD j || (bitAt s.resValid 5).getLsbD j) := by
  simp [statusWord]

end Sys2Proof.Machine
end

