-- ==== Sys2Proof/Laws/Bus.lean ====
section
/-! SUPPORT. What one host access can do (20_memory R42 to R46), said once. -/

namespace Sys2Proof.Machine

/-- A read leaves the state, but for the count of draws (20_memory R45). -/
theorem busRead_state (off : Offset) (s : State) :
    (busRead off s).2 = s ∨ (s.pend = true ∧ (busRead off s).2 = { s with draws := s.draws + 1 }) := by
  unfold busRead
  split
  · exact .inl rfl
  · split
    · rename_i h
      exact .inr ⟨by simp at h; exact h.1, rfl⟩
    · exact .inl rfl

/-- The effects of a write, all of them (20_memory R45). -/
theorem busWrite_cases (off : Offset) (v : Word) (s : State) :
    busWrite off v s = s ∨ busWrite off v s = s.writeCmd v ∨ busWrite off v s = { s with arg := v } ∨
      busWrite off v s = s.clearSticky v ∨ busWrite off v s = { s with mapIdx := v.setWidth 9 } ∨
      busWrite off v s = { s with pqIdx := v.setWidth 9 } ∨ busWrite off v s = { s with nodeIdx := v.setWidth 9 } ∨
      busWrite off v s = { s with ctSym := v.setWidth 8 } := by
  unfold busWrite
  split <;> simp

/-- A refused access changes nothing (20_memory R42; 70_reset R200). -/
theorem busAccess_refused {a : Access} {s : State} (h : (s.resetIn || !a.wholeWord) = true) : busAccess a s = (.busError, s) := by
  simp [busAccess, h]

/-- An admitted read (20_memory R42, R46). -/
theorem busAccess_read {w : Width} {off : Offset} {s : State} (h : (s.resetIn || !(Access.read w off).wholeWord) = false) :
    busAccess (.read w off) s = (.data (busRead off s).1, (busRead off s).2) := by
  simp [busAccess, h]

/-- An admitted write (20_memory R42, R46). -/
theorem busAccess_write {w : Width} {off : Offset} {v : Word} {s : State}
    (h : (s.resetIn || !(Access.write w off v).wholeWord) = false) :
    busAccess (.write w off v) s = (.written, busWrite off v s) := by
  simp [busAccess, h]

/-- An access touches none of the containers, results, error report, FATAL, the reset input, or the host's program and schedule. -/
theorem busAccess_frame (a : Access) (s : State) :
    (busAccess a s).2 =
      { s with
        arg := (busAccess a s).2.arg, mapIdx := (busAccess a s).2.mapIdx, pqIdx := (busAccess a s).2.pqIdx,
        nodeIdx := (busAccess a s).2.nodeIdx, ctSym := (busAccess a s).2.ctSym, err := (busAccess a s).2.err,
        overrun := (busAccess a s).2.overrun, pend := (busAccess a s).2.pend, pendCmd := (busAccess a s).2.pendCmd,
        pendArg := (busAccess a s).2.pendArg, draws := (busAccess a s).2.draws } := by
  unfold busAccess
  split
  · rfl
  · cases a with
    | read w off => rcases busRead_state off s with h | ⟨-, h⟩ <;> simp [h]
    | write w off v =>
      rcases busWrite_cases off v s with h | h | h | h | h | h | h | h <;> simp only [h]
      · unfold State.writeCmd; split <;> rfl
      · rfl

/-- The host's turn changes what its one access changes, the rest of its program, and the record of replies (20_memory R47). -/
theorem hostTurn_eq {s : State} {op : HostOp} {rest : List HostOp} (h : s.host = op :: rest) :
    s.hostTurn =
      { (busAccess op.busOp s).2 with
        host := op.after (busAccess op.busOp s).1 rest
        replies := s.replies ++ [(busAccess op.busOp s).1] } := by
  simp [State.hostTurn, h]

/-- A host with no operation left does nothing (20_memory R47; log entry 13). -/
theorem hostTurn_nil {s : State} (h : s.host = []) : s.hostTurn = s := by
  simp [State.hostTurn, h]

end Sys2Proof.Machine
end

