-- ==== Sys2Proof/Laws/Commands.lean ====
section
/-! SUPPORT. What a command can answer (60_exceptions R182, R184): said once, so that no later proof unfolds the sixteen meanings. -/

namespace Sys2Proof.Machine

theorem guarded_of_fatal {s : State} (h : s.fatal = true) (body : Result) : guarded s body = .next (s.raised .fatalLocked) := by
  simp [guarded, h]

theorem guarded_of_not_fatal {s : State} (h : s.fatal = false) (body : Result) : guarded s body = body := by
  simp [guarded, h]

/-- What a command does when none of its checks fails: its pseudocode's writes, without the error report. -/
def effect (i : Instr) (s : State) : State :=
  match i with
  | .nop => s
  | .mapClear => { s with map := [], total := 0#32 }
  | .mapCount sym => { s with map := countSymbol sym s.map, total := s.total + 1#32 }
  | .pqClear => s.clearTree
  | .pqLoadLeaves => s.loadLeaves
  | .pqRemoveFirst => (s.lGet 0).elim s fun n => s.lRemoveFirst.returnNode n
  | .pqRemoveAt idx => (s.lGet idx.toNat).elim s fun n => (s.lRemoveAt idx.toNat).returnNode n
  | .pqMergeStep => s.mergeStep
  | .pqExtractRoot => s.extractRoot
  | .buildTree => s.buildTree
  | .buildCodes => { s with ct := s.codesOfTree, cand := [] }
  | .encode sym => (s.ct.entry sym).elim s fun c => { s with resLen := BitVec.ofNat 8 c.length, resCode := packBits c }
  | .decBit b =>
    (matchCode s.ct (s.cand ++ [b])).elim { s with resValid := false, cand := s.cand ++ [b] } fun sym =>
      { s with resSym := sym, resValid := true, cand := [] }
  | .decEnd => s
  | .decClear => { s with cand := [], resValid := false }
  | .softReset => s.softReset

/-- The checks of a command, in the order of its pseudocode: the error it raises, if any (60_exceptions R181, R185). -/
def check (i : Instr) (s : State) : Option ErrCode :=
  match i with
  | .mapCount _ => if s.total = 0xFFFFFFFF#32 then some .countOverflow else none
  | .pqRemoveFirst => if s.lSize = 0 then some .underflowViolation else none
  | .pqRemoveAt idx =>
    if s.lSize = 0 then some .underflowViolation else if s.lSize ≤ idx.toNat then some .indexRange else none
  | .pqMergeStep => if s.lSize < 2 then some .underflowViolation else none
  | .pqExtractRoot =>
    if s.lSize = 0 then some .underflowViolation else if 1 < s.lSize then some .sequence else none
  | .buildTree => if s.map = [] then some .emptyInput else none
  | .encode sym => if s.ct.entry sym = none then some .lookupMiss else none
  | .decEnd => if s.cand = [] then none else some .decodeExhaustion
  | .nop => none
  | .mapClear => none
  | .pqClear => none
  | .pqLoadLeaves => none
  | .buildCodes => none
  | .decBit _ => none
  | .decClear => none
  | .softReset => none

/-- The state an error leaves besides the report: BUILD_TREE empties the tree, every other command changes nothing (60_exceptions R182). -/
def afterError (i : Instr) (s : State) : State := if i = .buildTree then s.clearTree else s

/-- A command as its checks and its effect: the fatal state, then the first check that fails, then the effect (60_exceptions R182, R184, R185,
R187). -/
theorem exec_eq (i : Instr) (s : State) :
    exec i s =
      if s.fatal = true ∧ i ≠ .softReset then .next (s.raised .fatalLocked)
      else
        match check i s with
        | some e => .next ((afterError i s).raised e)
        | none => .next (effect i s).succeeded := by
  rcases Bool.eq_false_or_eq_true s.fatal with hf | hf'
  · cases i <;>
      simp [exec, execNop, execMapClear, execMapCount, execPqClear, execPqLoadLeaves, execPqRemoveFirst, execPqRemoveAt, execPqMergeStep,
        execPqExtractRoot, execBuildTree, execBuildCodes, execEncode, execDecBit, execDecEnd, execDecClear, execSoftReset, check, effect,
        guarded, hf]
  rw [if_neg (by simp [hf'])]
  cases i
  case nop => simp [exec, execNop, guarded, hf', check, effect]
  case mapClear => simp [exec, execMapClear, guarded, hf', check, effect]
  case mapCount sym =>
    by_cases h : s.total = 0xFFFFFFFF#32 <;> simp [exec, execMapCount, guarded, hf', check, effect, afterError, h]
  case pqClear => simp [exec, execPqClear, guarded, hf', check, effect]
  case pqLoadLeaves => simp [exec, execPqLoadLeaves, guarded, hf', check, effect]
  case pqRemoveFirst =>
    cases h : s.list <;>
      simp [exec, execPqRemoveFirst, guarded, hf', check, effect, afterError, State.lGet, State.lSize, h]
  case pqRemoveAt idx =>
    by_cases h0 : s.list.length = 0
    · simp [exec, execPqRemoveAt, guarded, hf', check, afterError, State.lSize, h0]
    · by_cases h : s.list.length ≤ idx.toNat
      · simp [exec, execPqRemoveAt, guarded, hf', check, afterError, State.lGet, State.lSize, h0, h]
      · have h' : idx.toNat < s.list.length := by omega
        simp [exec, execPqRemoveAt, guarded, hf', check, effect, State.lGet, State.lSize, h0, h, h']
  case pqMergeStep =>
    by_cases h : s.lSize < 2 <;> simp [exec, execPqMergeStep, guarded, hf', check, effect, afterError, h]
  case pqExtractRoot =>
    by_cases h0 : s.lSize = 0
    · simp [exec, execPqExtractRoot, guarded, hf', check, afterError, h0]
    · by_cases h : 1 < s.lSize <;> simp [exec, execPqExtractRoot, guarded, hf', check, effect, afterError, h0, h]
  case buildTree =>
    by_cases h : s.map = [] <;> simp [exec, execBuildTree, guarded, hf', check, effect, afterError, h]
  case buildCodes => simp [exec, execBuildCodes, guarded, hf', check, effect]
  case encode sym =>
    cases h : s.ct.entry sym <;> simp [exec, execEncode, guarded, hf', check, effect, afterError, h]
  case decBit b =>
    cases h : matchCode s.ct (s.cand ++ [b]) <;> simp [exec, execDecBit, guarded, hf', check, effect, h]
  case decEnd =>
    by_cases h : s.cand = [] <;> simp [exec, execDecEnd, guarded, hf', check, effect, afterError, h]
  case decClear => simp [exec, execDecClear, guarded, hf', check, effect]
  case softReset => simp [exec, execSoftReset, check, effect]

/-- What follows when a command answers next: one of its three endings (60_exceptions R182, R184, R187). -/
theorem exec_cases {i : Instr} {s t : State} (h : exec i s = .next t) :
    (s.fatal = true ∧ i ≠ .softReset ∧ t = s.raised .fatalLocked) ∨
      ((s.fatal = false ∨ i = .softReset) ∧
        ((∃ e, check i s = some e ∧ t = (afterError i s).raised e) ∨ (check i s = none ∧ t = (effect i s).succeeded))) := by
  rw [exec_eq] at h
  split at h
  · rename_i hl
    exact .inl ⟨hl.1, hl.2, by simpa using h.symm⟩
  · rename_i hl
    refine .inr ⟨?_, ?_⟩
    · by_cases hi : i = .softReset
      · exact .inr hi
      · exact .inl (by simpa [hi] using hl)
    · split at h
      · exact .inl ⟨_, by assumption, by simpa using h.symm⟩
      · exact .inr ⟨by assumption, by simpa using h.symm⟩

end Sys2Proof.Machine
end

