-- ==== Sys2Proof/Laws/Words.lean ====
section
/-! SUPPORT. The operand fields of ARG and the fields of CMD (30_encoding R60 to R62): each operand is read back from the word that carries it,
and a word is legal in a form exactly when it is below the form's bound. -/

namespace Sys2Proof

namespace Machine

@[simp] theorem argSym_symArg (s : Sym) : argSym (symArg s) = s := by
  apply BitVec.eq_of_toNat_eq
  simp [argSym, symArg]
  exact s.isLt

@[simp] theorem argIdx_idxArg (i : BitVec 9) : argIdx (idxArg i) = i := by
  apply BitVec.eq_of_toNat_eq
  simp [argIdx, idxArg]
  exact i.isLt

@[simp] theorem argBit_bitArg (b : Bool) : argBit (bitArg b) = b := by
  cases b <;> decide

theorem legal_sym {arg : Word} : Form.sym.legal arg = true ↔ arg.toNat < 256 := by
  have := arg.isLt
  simp only [Form.legal, beq_iff_eq, ← BitVec.toNat_inj, BitVec.extractLsb'_toNat, Nat.shiftRight_eq_div_pow]
  simp
  omega

theorem legal_idx {arg : Word} : Form.idx.legal arg = true ↔ arg.toNat < 512 := by
  have := arg.isLt
  simp only [Form.legal, beq_iff_eq, ← BitVec.toNat_inj, BitVec.extractLsb'_toNat, Nat.shiftRight_eq_div_pow]
  simp
  omega

theorem legal_bit {arg : Word} : Form.bit.legal arg = true ↔ arg.toNat < 2 := by
  have := arg.isLt
  simp only [Form.legal, beq_iff_eq, ← BitVec.toNat_inj, BitVec.extractLsb'_toNat, Nat.shiftRight_eq_div_pow]
  simp
  omega

@[simp] theorem legal_symArg (s : Sym) : Form.sym.legal (symArg s) = true := by
  have := s.isLt
  rw [legal_sym]
  simp [symArg]
  omega

@[simp] theorem legal_idxArg (i : BitVec 9) : Form.idx.legal (idxArg i) = true := by
  have := i.isLt
  rw [legal_idx]
  simp [idxArg]
  omega

@[simp] theorem legal_bitArg (b : Bool) : Form.bit.legal (bitArg b) = true := by
  cases b <;> decide

/-- A legal SYM word carries its own operand. -/
theorem symArg_argSym {arg : Word} (h : Form.sym.legal arg = true) : symArg (argSym arg) = arg := by
  apply BitVec.eq_of_toNat_eq
  have := legal_sym.mp h
  simp [argSym, symArg]
  omega

/-- A legal IDX word carries its own operand. -/
theorem idxArg_argIdx {arg : Word} (h : Form.idx.legal arg = true) : idxArg (argIdx arg) = arg := by
  apply BitVec.eq_of_toNat_eq
  have := legal_idx.mp h
  simp [argIdx, idxArg]
  omega

/-- A legal BIT word carries its own operand. -/
theorem bitArg_argBit {arg : Word} (h : Form.bit.legal arg = true) : bitArg (argBit arg) = arg := by
  have h2 := legal_bit.mp h
  have : arg = 0#32 ∨ arg = 1#32 := by
    rcases (by omega : arg.toNat = 0 ∨ arg.toNat = 1) with e | e
    · left; exact BitVec.eq_of_toNat_eq (by simpa using e)
    · right; exact BitVec.eq_of_toNat_eq (by simpa using e)
  rcases this with rfl | rfl <;> decide

end Machine

/-- A CMD word is its two fields (30_encoding R60). -/
theorem cmd_of_fields {w : CommandWords} (h : w.mbz = 0#24) : w.cmd = w.opc.setWidth 32 := by
  apply BitVec.eq_of_toNat_eq
  have h' := congrArg BitVec.toNat h
  have := w.cmd.isLt
  simp only [CommandWords.mbz, BitVec.extractLsb'_toNat, Nat.shiftRight_eq_div_pow] at h'
  simp at h'
  simp [CommandWords.opc]
  omega

@[simp] theorem opc_setWidth (o : BitVec 8) (arg : Word) : CommandWords.opc ⟨o.setWidth 32, arg⟩ = o := by
  apply BitVec.eq_of_toNat_eq
  simp [CommandWords.opc]
  exact o.isLt

@[simp] theorem mbz_setWidth (o : BitVec 8) (arg : Word) : CommandWords.mbz ⟨o.setWidth 32, arg⟩ = 0#24 := by
  apply BitVec.eq_of_toNat_eq
  have := o.isLt
  simp [CommandWords.mbz, Nat.shiftRight_eq_div_pow]
  omega

@[simp] theorem opc_encode (i : Instr) : (encode i).opc = opcodeOf i := opc_setWidth _ _
@[simp] theorem mbz_encode (i : Instr) : (encode i).mbz = 0#24 := mbz_setWidth _ _
@[simp] theorem arg_encode (i : Instr) : (encode i).arg = operandWord i := rfl

/-- The opcode map has one row for each opcode (30_encoding R63). -/
theorem opcodeMap_nodup : (Machine.opcodeMap.map (·.opc)).Nodup := by decide

/-- A row found is the row of that opcode. -/
theorem opcodeRow_eq_some {opc : BitVec 8} {r : Machine.OpcodeRow} (h : Machine.opcodeRow opc = some r) :
    r ∈ Machine.opcodeMap ∧ r.opc = opc :=
  ⟨List.mem_of_find?_eq_some h, by simpa using List.find?_some h⟩

/-- The row of a command's opcode: its form, and the command again when it is given the command's operand. -/
theorem opcodeRow_opcodeOf (i : Instr) :
    ∃ r, Machine.opcodeRow (opcodeOf i) = some r ∧ r.form = Machine.formOf i ∧ r.build (operandWord i) = i ∧
      (Machine.formOf i = .none → ∀ arg, r.build arg = i) := by
  cases i <;> exact ⟨_, rfl, rfl, by simp [operandWord], by simp [Machine.formOf]⟩

/-- A row given a legal operand word makes the command whose opcode and operand these are. -/
theorem build_of_row {r : Machine.OpcodeRow} (hr : r ∈ Machine.opcodeMap) {arg : Word} (hl : r.form.legal arg = true) :
    opcodeOf (r.build arg) = r.opc ∧ Machine.formOf (r.build arg) = r.form ∧
      (r.form = .none ∨ arg = operandWord (r.build arg)) := by
  have hs : Machine.Form.sym.legal arg = true → arg = Machine.symArg (Machine.argSym arg) := fun h => (Machine.symArg_argSym h).symm
  have hi : Machine.Form.idx.legal arg = true → arg = Machine.idxArg (Machine.argIdx arg) := fun h => (Machine.idxArg_argIdx h).symm
  have hb : Machine.Form.bit.legal arg = true → arg = Machine.bitArg (Machine.argBit arg) := fun h => (Machine.bitArg_argBit h).symm
  simp only [Machine.opcodeMap, List.mem_cons, List.not_mem_nil, or_false] at hr
  rcases hr with rfl | rfl | rfl | rfl | rfl | rfl | rfl | rfl | rfl | rfl | rfl | rfl | rfl | rfl | rfl | rfl
  case inr.inr.inl => exact ⟨rfl, rfl, .inr (hs hl)⟩
  case inr.inr.inr.inr.inr.inr.inl => exact ⟨rfl, rfl, .inr (hi hl)⟩
  case inr.inr.inr.inr.inr.inr.inr.inr.inr.inr.inr.inl => exact ⟨rfl, rfl, .inr (hs hl)⟩
  case inr.inr.inr.inr.inr.inr.inr.inr.inr.inr.inr.inr.inl => exact ⟨rfl, rfl, .inr (hb hl)⟩
  all_goals exact ⟨rfl, rfl, .inl rfl⟩

end Sys2Proof
end

