-- ==== Sys2Proof/Laws/PerInstr.lean ====
section
/-! SUPPORT. The family WellFormedWords: the words a command is issued with pass every check of WellFormed.lean (30_encoding R64 to R66). -/

namespace Sys2Proof.Laws.WellFormedWords

/-- The words of the command are well formed (30_encoding R60 to R66). -/
def Statement (i : Instr) : Prop := (Sys2Proof.encode i).wellFormed = true

/-- The three checks pass when the opcode has a row and the operand word is legal in its form. -/
theorem of_row {i : Instr} {r : Machine.OpcodeRow} (hr : Machine.opcodeRow (opcodeOf i) = some r)
    (hl : r.form.legal (operandWord i) = true) : Statement i := by
  simp [Statement, CommandWords.wellFormed, CommandWords.mbzClear, CommandWords.opcodeDefined, CommandWords.operandLegal, hr, hl]

theorem nop : Statement .nop := of_row rfl rfl
theorem mapClear : Statement .mapClear := of_row rfl rfl
theorem mapCount (sym : Sym) : Statement (.mapCount sym) := of_row rfl (Machine.legal_symArg sym)
theorem pqClear : Statement .pqClear := of_row rfl rfl
theorem pqLoadLeaves : Statement .pqLoadLeaves := of_row rfl rfl
theorem pqRemoveFirst : Statement .pqRemoveFirst := of_row rfl rfl
theorem pqRemoveAt (idx : BitVec 9) : Statement (.pqRemoveAt idx) := of_row rfl (Machine.legal_idxArg idx)
theorem pqMergeStep : Statement .pqMergeStep := of_row rfl rfl
theorem pqExtractRoot : Statement .pqExtractRoot := of_row rfl rfl
theorem buildTree : Statement .buildTree := of_row rfl rfl
theorem buildCodes : Statement .buildCodes := of_row rfl rfl
theorem encode (sym : Sym) : Statement (.encode sym) := of_row rfl (Machine.legal_symArg sym)
theorem decBit (b : Bool) : Statement (.decBit b) := of_row rfl (Machine.legal_bitArg b)
theorem decEnd : Statement .decEnd := of_row rfl rfl
theorem decClear : Statement .decClear := of_row rfl rfl
theorem softReset : Statement .softReset := of_row rfl rfl

end Sys2Proof.Laws.WellFormedWords
end

