-- ==== Sys2Proof/Laws/Step.lean ====
section
/-! SUPPORT. What one step can do (20_memory R47): said once, turn by turn, so that an invariant is proved by cases. -/

namespace Sys2Proof.Machine

theorem nextTurn_of_sched {s : State} {t : Turn} {rest : List Turn} (h : s.sched = t :: rest) : s.nextTurn = t := by
  simp [State.nextTurn, h]

/-- The four turns. -/
theorem step_cases {s t : State} (h : step s = .next t) :
    (s.nextTurn = .host ∧ t = s.popSched.hostTurn) ∨
      (s.nextTurn = .engine ∧ s.engineEnabled = true ∧ complete s.popSched = .next t) ∨
      (s.nextTurn = .engine ∧ s.engineEnabled = false ∧ t = s.popSched) ∨
      (s.nextTurn = .assertReset ∧ t = s.popSched.assertReset) ∨
      (s.nextTurn = .releaseReset ∧ t = s.popSched.releaseReset) := by
  have he : s.popSched.engineEnabled = s.engineEnabled := rfl
  unfold step takeTurn at h
  cases hn : s.nextTurn <;> rw [hn] at h <;> simp only at h
  case host => exact .inl ⟨rfl, by simpa using h.symm⟩
  case engine =>
    rw [he] at h
    split at h
    · rename_i hb; exact .inr (.inl ⟨rfl, hb, h⟩)
    · rename_i hb; exact .inr (.inr (.inl ⟨rfl, by simpa using hb, by simpa using h.symm⟩))
  case assertReset => exact .inr (.inr (.inr (.inl ⟨rfl, by simpa using h.symm⟩)))
  case releaseReset => exact .inr (.inr (.inr (.inr ⟨rfl, by simpa using h.symm⟩)))

/-- The two kinds of completion: a command, or words that are none (70_reset R211; 30_encoding R67). -/
theorem complete_cases {s t : State} (h : complete s = .next t) :
    (∃ i, decode s.pendWords = .ok i ∧ exec i s.retire = .next t) ∨
      ∃ e, decode s.pendWords = .error e ∧
        t = s.retire.raised (if s.fatal then .fatalLocked else errorOf e) := by
  unfold complete at h
  split at h
  · exact .inl ⟨_, by assumption, h⟩
  · refine .inr ⟨_, by assumption, ?_⟩
    unfold rejected guarded at h
    split at h <;> rename_i hf <;> simp at hf <;> simpa [hf] using h.symm

/-- Where the engine completes next (70_reset R211). -/
theorem step_of_completing {s : State} (h1 : s.nextTurn = .engine) (h2 : s.pend = true) (h3 : s.resetIn = false) :
    step s = complete s.popSched := by
  have : s.popSched.engineEnabled = true := by simp [State.engineEnabled, h2, h3]
  simp [step, takeTurn, h1, this]

@[simp] theorem withPending_nextTurn (s : State) (w : CommandWords) : (s.withPending w).nextTurn = .engine := rfl

/-- The instruction placed by `withFetchWord` is the one the next step runs (70_reset R211). -/
theorem step_withFetchWord {s : State} {nbits w : Nat} {i : Instr} (h : decodeTableWord nbits w = some i) :
    step (s.withFetchWord nbits w) = exec i (s.withFetchWord nbits w).popSched.retire := by
  have hd : decode (tableWords nbits w) = .ok i := by
    unfold decodeTableWord at h
    split at h
    · rename_i j hj
      rw [hj]
      simpa using h
    · simp at h
  rw [step_of_completing rfl rfl rfl, complete]
  have hp : (s.withFetchWord nbits w).popSched.pendWords = tableWords nbits w := rfl
  rw [hp, hd]

end Sys2Proof.Machine
end

