-- ==== Sys2Proof/Laws/Table.lean ====
section
/-! SUPPORT. Reading and writing the code table (10_state R37), and what MATCH finds (44_codec R152). -/

namespace Sys2Proof.Machine

namespace CodeTable

@[simp] theorem entry_empty (s : Sym) : empty.entry s = none := by
  simp [empty, entry]

@[simp] theorem entry_record_self (ct : CodeTable) (s : Sym) (c : Bits) : (ct.record s c).entry s = some c := by
  simp [record, entry]

theorem entry_record_of_ne (ct : CodeTable) {s x : Sym} (c : Bits) (h : x ≠ s) : (ct.record s c).entry x = ct.entry x := by
  have hne : s.toNat ≠ x.toNat := fun e => h (BitVec.eq_of_toNat_eq e.symm)
  simp [record, entry, hne]

theorem entry_record (ct : CodeTable) (s x : Sym) (c : Bits) :
    (ct.record s c).entry x = if x = s then some c else ct.entry x := by
  split
  · subst x; simp
  · rename_i h; exact entry_record_of_ne ct c h

/-- Two tables with the same entries are the same table. -/
theorem ext_entry {ct ct' : CodeTable} (h : ∀ s, ct.entry s = ct'.entry s) : ct = ct' := by
  apply Vector.ext
  intro i hi
  have := h (BitVec.ofNat 8 i)
  simpa [entry, Nat.mod_eq_of_lt hi] using this

/-- The valid codes are the codes of the symbols. -/
theorem mem_codes {ct : CodeTable} {c : Bits} : c ∈ ct.codes ↔ ∃ s, ct.entry s = some c := by
  constructor
  · intro h
    simp only [codes, List.mem_filterMap, id, exists_eq_right, Vector.mem_toList_iff] at h
    obtain ⟨i, hi, he⟩ := Vector.mem_iff_getElem.mp h
    exact ⟨BitVec.ofNat 8 i, by simpa [entry, Nat.mod_eq_of_lt hi] using he⟩
  · rintro ⟨s, hs⟩
    simp only [codes, List.mem_filterMap, id, exists_eq_right, Vector.mem_toList_iff]
    exact hs ▸ Vector.getElem_mem _

/-- `PrefixFree` in terms of symbols: codes of different symbols are not prefixes of one another (43_code_table R143). -/
theorem prefixFree_iff {ct : CodeTable} :
    ct.PrefixFree ↔ ∀ a b c d, a ≠ b → ct.entry a = some c → ct.entry b = some d → ¬c <+: d := by
  unfold PrefixFree codes
  rw [List.pairwise_filterMap, List.pairwise_iff_getElem]
  constructor
  · intro h a b c d hab hc hd
    rcases lt_or_gt_of_ne (fun e => hab (BitVec.eq_of_toNat_eq e) : a.toNat ≠ b.toNat) with hlt | hlt
    · exact (h a.toNat b.toNat (by simpa using a.isLt) (by simpa using b.isLt) hlt c hc d hd).1
    · exact (h b.toNat a.toNat (by simpa using b.isLt) (by simpa using a.isLt) hlt d hd c hc).2
  · intro h i j hi hj hij c hc d hd
    have hi' : i < 256 := by simpa using hi
    have hj' : j < 256 := by simpa using hj
    have hne : BitVec.ofNat 8 i ≠ BitVec.ofNat 8 j := by
      intro e
      have := congrArg BitVec.toNat e
      simp [Nat.mod_eq_of_lt hi', Nat.mod_eq_of_lt hj'] at this
      omega
    have ei : ct.entry (BitVec.ofNat 8 i) = some c := by simpa [entry, Nat.mod_eq_of_lt hi'] using hc
    have ej : ct.entry (BitVec.ofNat 8 j) = some d := by simpa [entry, Nat.mod_eq_of_lt hj'] using hd
    exact ⟨h _ _ c d hne ei ej, h _ _ d c hne.symm ej ei⟩

end CodeTable

/-- What MATCH finds has the code looked for (44_codec R152). -/
theorem entry_of_matchCode {ct : CodeTable} {c : Bits} {s : Sym} (h : matchCode ct c = some s) : ct.entry s = some c := by
  simp only [matchCode, Option.map_eq_some_iff] at h
  obtain ⟨i, hi, rfl⟩ := h
  obtain ⟨hlt, heq, -⟩ := List.findIdx?_eq_some_iff_getElem.mp hi
  have hlt' : i < 256 := by simpa using hlt
  simpa [CodeTable.entry, Nat.mod_eq_of_lt hlt'] using heq

/-- MATCH finds nothing exactly when no symbol has the code (44_codec R152). -/
theorem matchCode_eq_none {ct : CodeTable} {c : Bits} : matchCode ct c = none ↔ ∀ s, ct.entry s ≠ some c := by
  constructor
  · intro h s hs
    simp only [matchCode, Option.map_eq_none_iff, List.findIdx?_eq_none_iff] at h
    have := h _ (Vector.mem_toList_iff.mpr (hs ▸ Vector.getElem_mem s.isLt : some c ∈ ct))
    simp at this
  · intro h
    cases hm : matchCode ct c with
    | none => rfl
    | some s => exact absurd (entry_of_matchCode hm) (h s)

/-- Where only one symbol has the code, MATCH finds it (44_codec R152). -/
theorem matchCode_eq_some {ct : CodeTable} {c : Bits} {s : Sym} (hs : ct.entry s = some c)
    (huniq : ∀ x, ct.entry x = some c → x = s) : matchCode ct c = some s := by
  cases hm : matchCode ct c with
  | none => exact absurd hs (matchCode_eq_none.mp hm s)
  | some x => rw [huniq x (entry_of_matchCode hm)]

end Sys2Proof.Machine
end

