-- ==== Sys2Proof/Tests/Slice0.lean ====
section
/-! SUPPORT. Tests on small states. Expected values are the spec's own: the words of 30_encoding R60 to R63, the examples of the command rules,
and the vectors of 95_test_vectors, named in each docstring. The second half holds, for each statement with hypotheses, witnesses that meet
them. -/

namespace Sys2Proof.Tests

open Sys2Proof Sys2Proof.Machine

/-! ## Words -/

/-- 30_encoding R65: the must-be-zero check. -/
theorem test_illFormed_mbz : (CommandWords.mk 0x00000101#32 0#32).mbzClear = false ∧ (CommandWords.mk 0x00000101#32 0#32).wellFormed = false ∧
    (CommandWords.mk 0x80000000#32 0#32).wellFormed = false := by decide

/-- 30_encoding R64: the opcode check, at both ends of each reserved range. -/
theorem test_illFormed_opcode :
    [0x03#32, 0x0F#32, 0x14#32, 0x1F#32, 0x23#32, 0x2F#32, 0x31#32, 0x3F#32, 0x44#32, 0xFE#32].all (fun o =>
      !(CommandWords.mk o 0#32).opcodeDefined && !(CommandWords.mk o 0#32).wellFormed) = true := by decide +kernel

/-- 30_encoding R66: the operand check, one bit above each field. -/
theorem test_illFormed_operand :
    ∀ w ∈ [(CommandWords.mk 0x02#32 0x100#32), ⟨0x40#32, 0x100#32⟩, ⟨0x13#32, 0x200#32⟩, ⟨0x41#32, 2#32⟩],
      w.operandLegal = false ∧ w.wellFormed = false := by decide

/-- 30_encoding R61: the greatest operand of each form is well formed, and NONE takes any ARG. -/
theorem test_wellFormed_greatest_operands :
    ∀ w ∈ [(CommandWords.mk 0x02#32 0xFF#32), ⟨0x40#32, 0xFF#32⟩, ⟨0x13#32, 0x1FF#32⟩, ⟨0x41#32, 1#32⟩, ⟨0x01#32, 0xFFFFFFFF#32⟩],
      w.wellFormed = true := by decide

/-- 30_encoding R63, 45_control: the words written out, OPC in CMD[7:0]. -/
theorem test_decode_control :
    decode ⟨0b00000000000000000000000000000000#32, 0#32⟩ = .ok .nop ∧
      decode ⟨0b00000000000000000000000011111111#32, 0#32⟩ = .ok .softReset := by decide

/-- 30_encoding R63, 40_frequency_map: the symbol is ARG[7:0]. -/
theorem test_decode_map :
    decode ⟨0b00000000000000000000000000000001#32, 0#32⟩ = .ok .mapClear ∧
      decode ⟨0b00000000000000000000000000000010#32, 0b00000000000000000000000001100001#32⟩ = .ok (.mapCount 0x61#8) := by decide

/-- 30_encoding R63, 41_priority_list: the index is ARG[8:0]. -/
theorem test_decode_list :
    decode ⟨0b00000000000000000000000000010000#32, 0#32⟩ = .ok .pqClear ∧
      decode ⟨0b00000000000000000000000000010001#32, 0#32⟩ = .ok .pqLoadLeaves ∧
      decode ⟨0b00000000000000000000000000010010#32, 0#32⟩ = .ok .pqRemoveFirst ∧
      decode ⟨0b00000000000000000000000000010011#32, 0b00000000000000000000000100000010#32⟩ = .ok (.pqRemoveAt 258#9) := by decide

/-- 30_encoding R63, 42_tree_builder. -/
theorem test_decode_tree :
    decode ⟨0b00000000000000000000000000100000#32, 0#32⟩ = .ok .pqMergeStep ∧
      decode ⟨0b00000000000000000000000000100001#32, 0#32⟩ = .ok .pqExtractRoot ∧
      decode ⟨0b00000000000000000000000000100010#32, 0#32⟩ = .ok .buildTree := by decide

/-- 30_encoding R63, 43_code_table. -/
theorem test_decode_codes : decode ⟨0b00000000000000000000000000110000#32, 0#32⟩ = .ok .buildCodes := by decide

/-- 30_encoding R63, 44_codec: the symbol is ARG[7:0], the stream bit ARG[0]. -/
theorem test_decode_codec :
    decode ⟨0b00000000000000000000000001000000#32, 0b00000000000000000000000010000011#32⟩ = .ok (.encode 0x83#8) ∧
      decode ⟨0b00000000000000000000000001000001#32, 0b00000000000000000000000000000001#32⟩ = .ok (.decBit true) ∧
      decode ⟨0b00000000000000000000000001000001#32, 0#32⟩ = .ok (.decBit false) ∧
      decode ⟨0b00000000000000000000000001000010#32, 0#32⟩ = .ok .decEnd ∧
      decode ⟨0b00000000000000000000000001000011#32, 0#32⟩ = .ok .decClear := by decide

/-- The names of the refusals (30_encoding R64 to R67): CMD[31:8] is checked before the opcode, the opcode before the operand. -/
theorem test_decode_refusals :
    decode ⟨0x00000103#32, 0#32⟩ = .error .cmdMustBeZero ∧ decode ⟨0x00000003#32, 0xFFFFFFFF#32⟩ = .error .reservedOpcode ∧
      decode ⟨0x00000041#32, 0x00000002#32⟩ = .error .illegalOperand := by decide

/-- The opcode table's numbering: CMD is bits 31..0, and an ARG word without bits is 0. -/
theorem test_decodeTableWord :
    decodeTableWord 32 0x00000022 = some .buildTree ∧ decodeTableWord 32 0x00000002 = some (.mapCount 0#8) ∧
      decodeTableWord 64 0x0000006100000002 = some (.mapCount 0x61#8) ∧ decodeTableWord 32 0x00000003 = none := by decide

/-! ## Commands, one step each -/

/-- The next state, where there is one. -/
def after (i : Instr) (s : State) : State :=
  match exec i s with
  | .next t => t
  | .fault _ => s
  | .refused _ => s

/-- The state with a command issued (70_reset R210). -/
def issued (s : State) (cmd arg : Word) : State := { s with pend := true, pendCmd := cmd, pendArg := arg }

/-- The next state of a step, where there is one. -/
def stepped (s : State) : State :=
  match step s with
  | .next t => t
  | .fault _ => s
  | .refused _ => s

/-- MAP = [a2, b1] (MAP-2). -/
def sMap : State := { State.reset with map := [⟨0x61#8, 2#32⟩, ⟨0x62#8, 1#32⟩], total := 3#32 }

/-- LIST-1's result: the leaves of "abracadabra", loaded. -/
def sLeaves : State :=
  { State.reset with
    map := [⟨0x61#8, 5#32⟩, ⟨0x62#8, 2#32⟩, ⟨0x72#8, 2#32⟩, ⟨0x63#8, 1#32⟩, ⟨0x64#8, 1#32⟩], total := 11#32
    nodes := [.leaf 0x61#8 5#32, .leaf 0x62#8 2#32, .leaf 0x72#8 2#32, .leaf 0x63#8 1#32, .leaf 0x64#8 1#32]
    list := [3, 4, 1, 2, 0] }

/-- The tree of "aabb" (TREE-2). -/
def sTree : State :=
  { State.reset with
    map := [⟨0x61#8, 2#32⟩, ⟨0x62#8, 2#32⟩], total := 4#32
    nodes := [.leaf 0x61#8 2#32, .leaf 0x62#8 2#32, .internal 4#32 0 1], root := some 2 }

/-- The table a "0", c "100" of "abracadabra" (TREE-4), as far as the tests need it. -/
def sTable : State := { State.reset with ct := (CodeTable.empty.record 0x61#8 [false]).record 0x63#8 [true, false, false] }

/-- The fatal state (ERR-8). -/
def sFatal : State := { State.reset with fatal := true, err := true, errCode := .underflowViolation }

/-- MAP-1, MAP-2: a fresh symbol is appended, a known one goes up. -/
theorem test_mapCount :
    (after (.mapCount 0x63#8) sMap).map = [⟨0x61#8, 2#32⟩, ⟨0x62#8, 1#32⟩, ⟨0x63#8, 1#32⟩] ∧
      (after (.mapCount 0x62#8) sMap).map = [⟨0x61#8, 2#32⟩, ⟨0x62#8, 2#32⟩] ∧ (after (.mapCount 0x62#8) sMap).total = 4#32 := by decide

/-- MAP-5, MAP-6: the last count, and the overflow. -/
theorem test_mapCount_limit :
    (after (.mapCount 0x62#8) { sMap with total := 0xFFFFFFFF#32 }).errCode = .countOverflow ∧
      (after (.mapCount 0x62#8) { sMap with total := 0xFFFFFFFE#32 }).total = 0xFFFFFFFF#32 := by decide

/-- MAP-3. -/
theorem test_mapClear : (after .mapClear sTree).map = [] ∧ (after .mapClear sTree).total = 0#32 ∧
    (after .mapClear sTree).root = some 2 := by decide

/-- LIST-1. -/
theorem test_pqLoadLeaves : (after .pqLoadLeaves { sLeaves with nodes := [], list := [7] }).nodes = sLeaves.nodes ∧
    (after .pqLoadLeaves { sLeaves with nodes := [], list := [7] }).list = [3, 4, 1, 2, 0] := by decide

/-- LIST-11. -/
theorem test_pqClear : (after .pqClear sTree).nodes = [] ∧ (after .pqClear sTree).root = none ∧
    (after .pqClear sTree).map = sTree.map := by decide

/-- LIST-3. -/
theorem test_pqRemoveFirst : (after .pqRemoveFirst sLeaves).resNode = 3#9 ∧ (after .pqRemoveFirst sLeaves).list = [4, 1, 2, 0] ∧
    (after .pqRemoveFirst sLeaves).nodes = sLeaves.nodes := by decide

/-- LIST-10, L1-11: STATUS reads ERR and FATAL. -/
theorem test_pqRemoveFirst_underflow : (after .pqRemoveFirst State.reset).errCode = .underflowViolation ∧
    statusWord (after .pqRemoveFirst State.reset) = 0x00000006#32 := by decide

/-- LIST-4, LIST-6. -/
theorem test_pqRemoveAt : (after (.pqRemoveAt 2#9) sLeaves).resNode = 1#9 ∧ (after (.pqRemoveAt 2#9) sLeaves).list = [3, 4, 2, 0] ∧
    (after (.pqRemoveAt 4#9) sLeaves).resNode = 0#9 := by decide

/-- LIST-5, LIST-8, LIST-9: out of range is not fatal; the empty list is checked first. -/
theorem test_pqRemoveAt_errors : (after (.pqRemoveAt 5#9) sLeaves).errCode = .indexRange ∧ (after (.pqRemoveAt 511#9) sLeaves).fatal = false ∧
    (after (.pqRemoveAt 0#9) State.reset).errCode = .underflowViolation := by decide

/-- 42_tree_builder R130, example. -/
theorem test_pqMergeStep : (after .pqMergeStep sLeaves).list = [1, 2, 5, 0] ∧
    (after .pqMergeStep sLeaves).nodes = sLeaves.nodes ++ [.internal 2#32 3 4] ∧ (after .pqMergeStep sLeaves).resNode = 5#9 := by decide

/-- TREE-17. -/
theorem test_pqMergeStep_underflow : (after .pqMergeStep { sLeaves with list := [0] }).fatal = true ∧
    (after .pqMergeStep { sLeaves with list := [0] }).list = [0] := by decide

/-- 42_tree_builder R131. -/
theorem test_pqExtractRoot : (after .pqExtractRoot { sTree with root := none, list := [2] }).root = some 2 ∧
    (after .pqExtractRoot { sTree with root := none, list := [2] }).list = [] ∧
    (after .pqExtractRoot { sTree with root := none, list := [2] }).resNode = 2#9 := by decide

/-- TREE-16, TREE-18. -/
theorem test_pqExtractRoot_errors : (after .pqExtractRoot { sTree with list := [0, 1] }).errCode = .sequence ∧
    (after .pqExtractRoot State.reset).errCode = .underflowViolation := by decide

/-- TREE-4: the whole build of "abracadabra". -/
theorem test_buildTree : (after .buildTree sLeaves).nodes =
      sLeaves.nodes ++ [.internal 2#32 3 4, .internal 4#32 1 2, .internal 6#32 5 6, .internal 11#32 0 7] ∧
    (after .buildTree sLeaves).root = some 8 ∧ (after .buildTree sLeaves).list = [] := by decide

/-- TREE-13, L1-10. -/
theorem test_buildTree_empty : (after .buildTree { sTree with map := [] }).errCode = .emptyInput ∧
    (after .buildTree { sTree with map := [] }).root = none ∧ (after .buildTree { sTree with map := [] }).nodes = [] := by decide

/-- TREE-2, L1-2. -/
theorem test_buildCodes : (after .buildCodes sTree).ct.entry 0x61#8 = some [false] ∧
    (after .buildCodes sTree).ct.entry 0x62#8 = some [true] ∧ (after .buildCodes sTree).ct.validCount = 2 := by decide +kernel

/-- L1-1, L1-9: the single leaf's code, and the empty table of no root. -/
theorem test_buildCodes_edges : (after .buildCodes { sTree with root := some 1 }).ct.entry 0x62#8 = some [false] ∧
    (after .buildCodes { sTree with root := none }).ct.validCount = 0 := by decide +kernel

/-- COD-1. -/
theorem test_encode : (after (.encode 0x63#8) sTable).resLen = 3#8 ∧ (after (.encode 0x63#8) sTable).resCode = 0b001#256 := by decide

/-- COD-11, L1-12: RES_LEN keeps its value. -/
theorem test_encode_miss : (after (.encode 0x62#8) { sTable with resLen := 3#8 }).errCode = .lookupMiss ∧
    (after (.encode 0x62#8) { sTable with resLen := 3#8 }).resLen = 3#8 := by decide

/-- COD-5. -/
theorem test_decBit_match : (after (.decBit false) { sTable with cand := [true, false] }).resSym = 0x63#8 ∧
    (after (.decBit false) { sTable with cand := [true, false] }).resValid = true ∧
    (after (.decBit false) { sTable with cand := [true, false] }).cand = [] := by decide

/-- COD-4. -/
theorem test_decBit_open : (after (.decBit true) { sTable with resValid := true, resSym := 0x61#8 }).cand = [true] ∧
    (after (.decBit true) { sTable with resValid := true, resSym := 0x61#8 }).resValid = false ∧
    (after (.decBit true) { sTable with resValid := true, resSym := 0x61#8 }).resSym = 0x61#8 := by decide +kernel

/-- COD-6, COD-7. -/
theorem test_decEnd : (after .decEnd { sTable with cand := [true, true] }).errCode = .decodeExhaustion ∧
    (after .decEnd { sTable with cand := [true, true] }).cand = [true, true] ∧ (after .decEnd sTable).errCode = .none := by decide

/-- COD-7. -/
theorem test_decClear : (after .decClear { sTable with cand := [true, true], resValid := true }).cand = [] ∧
    (after .decClear { sTable with cand := [true, true], resValid := true }).resValid = false := by decide

/-- ERR-1, ERR-8: NOP leaves ERR; in the fatal state it is locked. -/
theorem test_nop : (after .nop { sMap with errCode := .lookupMiss, err := true }).errCode = .none ∧
    (after .nop { sMap with errCode := .lookupMiss, err := true }).err = true ∧ (after .nop { sMap with fatal := true }).errCode = .fatalLocked := by
  decide

/-- ERR-11, P3: ARG and the index registers stay. -/
theorem test_softReset : after .softReset { sTree with err := true, fatal := true, errCode := .underflowViolation, arg := 0x78#32, ctSym := 3#8 } =
    { State.reset with arg := 0x78#32, ctSym := 3#8 } := rfl

/-! ## Steps -/

/-- The first step after reset with a placed word runs exactly that command: "a" counted, and a table row with an operand word of zeros. -/
theorem test_withFetchWord :
    (stepped (State.reset.withFetchWord 64 0x0000006100000002)).map = [⟨0x61#8, 1#32⟩] ∧
      (stepped (State.reset.withFetchWord 32 0x00000002)).map = [⟨0#8, 1#32⟩] ∧
      (stepped (State.reset.withFetchWord 32 0x00000012)).errCode = .underflowViolation := by decide

/-- ERR-4, ERR-6, ERR-7, ERR-9, ERR-10: the errors of words that are no command, and their order. -/
theorem test_step_rejected :
    (stepped (issued State.reset 0x03#32 0#32)).errCode = .illegalOpcode ∧
      (stepped (issued State.reset 0x00000101#32 0#32)).errCode = .illegalOpcode ∧
      (stepped (issued State.reset 0x01#32 0xFFFFFFFF#32)).errCode = .none ∧
      (stepped (issued { State.reset with fatal := true } 0x03#32 0#32)).errCode = .fatalLocked ∧
      (stepped (issued { State.reset with fatal := true } 0x000001FF#32 0#32)).errCode = .fatalLocked := by decide

/-- BUS-1, BUS-3 to BUS-8: constants, reserved offsets, refused accesses, stored bits. -/
theorem test_bus :
    (busAccess (.read .word 0x000#12) sMap).1 = .data 0x48544231#32 ∧ (busAccess (.read .word 0x008#12) sMap).1 = .data 0#32 ∧
      (busAccess (.read .word 0xFFC#12) sMap).1 = .data 0#32 ∧ (busAccess (.write .word 0x000#12 5#32) sMap).1 = .written ∧
      (busAccess (.read .byte 0x010#12) sMap).1 = .busError ∧ (busAccess (.write .word 0x012#12 1#32) sMap).1 = .busError ∧
      (busAccess (.write .word 0x040#12 0xFFFFFFFF#32) sMap).2.mapIdx = 0x1FF#9 ∧
      (busAccess (.write .word 0x068#12 0x00000162#32) sMap).2.ctSym = 0x62#8 := by decide +kernel

/-- MAP-2, LIST-2, TREE-19 to TREE-22: the windows. -/
theorem test_windows :
    { sMap with mapIdx := 1#9 }.regValue .mapEntSym = 0x80000062#32 ∧ { sMap with mapIdx := 2#9 }.regValue .mapEntCnt = 0#32 ∧
      sLeaves.regValue .pqEnt = 0x80000003#32 ∧ { sLeaves with pqIdx := 4#9 }.regValue .pqEntKey = 5#32 ∧
      { (after .buildTree sLeaves) with nodeIdx := 7#9 }.regValue .nodeKids = 0x00060005#32 ∧
      { sLeaves with nodeIdx := 3#9 }.regValue .nodeInfo = 0xC0000063#32 ∧ { sLeaves with nodeIdx := 5#9 }.regValue .nodeInfo = 0#32 ∧
      { sTable with ctSym := 0x63#8 }.regValue .ctInfo = 0x80000003#32 ∧ { sTable with ctSym := 0x63#8 }.regValue (.ctCode 0) = 1#32 := by
  decide

/-- TREE-4, COD-1, L1-1, P3: the size, count and result registers, ROOT, CT_COUNT and ERR_CODE. -/
theorem test_registers :
    (after .buildTree sLeaves).regValue .root = 0x80000008#32 ∧ (after .buildTree sLeaves).regValue .nodeCount = 9#32 ∧
      (after .buildTree sLeaves).regValue .resNode = 8#32 ∧ sLeaves.regValue .pqSize = 5#32 ∧ sLeaves.regValue .mapSize = 5#32 ∧
      sLeaves.regValue .total = 11#32 ∧ sTable.regValue .ctCount = 2#32 ∧ (after (.encode 0x63#8) sTable).regValue .resLen = 3#32 ∧
      (after .pqMergeStep State.reset).regValue .errCode = 4#32 ∧ (after .nop sFatal).regValue .errCode = 10#32 := by decide +kernel

/-- BUS-9 to BUS-11, ERR-13: accesses while a command runs. -/
theorem test_busy :
    (busAccess (.read .word 0x010#12) (issued sMap 0#32 0#32)).1 = .data 1#32 ∧
      (busAccess (.read .word 0x02C#12) (issued sMap 0#32 0#32)).1 = .data (Config.freeWord 0) ∧
      (busAccess (.write .word 0x00C#12 0x62#32) (issued sMap 0x02#32 0x61#32)).2.pendArg = 0x61#32 ∧
      (busAccess (.write .word 0x008#12 0#32) (issued sMap 0x02#32 0x61#32)).2 = { issued sMap 0x02#32 0x61#32 with overrun := true } :=
  ⟨by decide +kernel, rfl, rfl, rfl⟩

/-- BUS-12: reset asserted refuses accesses and abandons a pending command. -/
theorem test_reset_input :
    stepped { issued sMap 0x02#32 0x61#32 with sched := [.assertReset] } = { State.reset with resetIn := true } ∧
      busAccess (.read .word 0x000#12) { State.reset with resetIn := true } = (.busError, { State.reset with resetIn := true }) :=
  ⟨rfl, rfl⟩

/-- 20_memory R43: byte lanes of 0x48544231, lane 0 first. -/
theorem test_byteLanes : (List.finRange 4).map (byteLane 0x48544231#32) = [0x31#8, 0x42#8, 0x54#8, 0x48#8] := by decide

/-- 00_scope R6, 10_state R12: PARAMS is made of the parameters, and these of one another. -/
theorem test_parameters :
    Config.paramsValue.toNat = Config.symW + 2 ^ 8 * Config.cntW + 2 ^ 16 * Config.codeMax + 2 ^ 24 * Config.version ∧
      Config.nsymMax = 2 ^ Config.symW ∧ Config.nodeMax = 2 * Config.nsymMax - 1 ∧ Config.nodeMax < 2 ^ Config.idxW ∧
      Config.codeMax = Config.nsymMax - 1 ∧ Config.codeWords = (Config.codeMax + 31) / 32 := by decide

/-- 70_reset R220: a host that has read ID and has nothing left to do. -/
theorem test_run : (stepped { State.reset with host := Prog.rd .id }).runOver = true ∧
    (stepped { State.reset with host := Prog.rd .id }).valuesRead = [0x48544231#32] := by decide

/-- 30_encoding R68, P1: MAP_COUNT 'a' written out as bus operations. -/
theorem test_program : Prog.command (.mapCount (Prog.symOfChar 'a')) =
    [.access (.write .word 0x00C#12 0x61#32), .access (.write .word 0x008#12 0x02#32), .wait] := by decide

/-! ## Witnesses: the hypotheses of the statements can be met

Each is named after its statement. Where a statement says something for `s.fatal = false` or `= true` alone, `State.reset` and `sFatal` meet it. -/

/-- A command issued on a machine at rest is the next step's (70_reset R211). -/
theorem issued_completing {s : State} (hs : s.sched = []) (hr : s.resetIn = false) (cmd arg : Word) : (issued s cmd arg).Completing :=
  ⟨by simp [issued, State.nextTurn, State.engineEnabled, hs, hr], rfl, hr⟩

theorem witness_not_fatal_and_fatal : State.reset.fatal = false ∧ sFatal.fatal = true := ⟨rfl, rfl⟩

/-- Both ends of each reserved range. -/
theorem witness_ReservedOpcodeIsIllegal :
    ∀ o ∈ [0x03, 0x0F, 0x14, 0x1F, 0x23, 0x2F, 0x31, 0x3F, 0x44, 0xFE],
      ∃ s : State, s.Completing ∧ s.fatal = false ∧ o = s.pendCmd.toNat % 256 ∧
        ((0x03 ≤ o ∧ o ≤ 0x0F) ∨ (0x14 ≤ o ∧ o ≤ 0x1F) ∨ (0x23 ≤ o ∧ o ≤ 0x2F) ∨ (0x31 ≤ o ∧ o ≤ 0x3F) ∨ (0x44 ≤ o ∧ o ≤ 0xFE)) := by
  intro o ho
  have hlt : o < 256 := by simp at ho; omega
  refine ⟨issued .reset (BitVec.ofNat 32 o) 0#32, issued_completing rfl rfl _ _, rfl, ?_, ?_⟩
  · simp [issued]; omega
  · simp at ho; omega

theorem witness_NonzeroCmdHighBitsAreIllegal :
    ∀ w ∈ [0x00000100#32, 0x000001FF#32, 0xFFFFFFFF#32],
      ∃ s : State, s.Completing ∧ s.fatal = false ∧ 0x100 ≤ s.pendCmd.toNat ∧ s.pendCmd = w := by
  intro w hw
  refine ⟨issued .reset w 0#32, issued_completing rfl rfl _ _, rfl, ?_, rfl⟩
  simp at hw
  rcases hw with rfl | rfl | rfl <;> decide

/-- One bit above each operand field, and a NONE command with two ARG words. -/
theorem witness_OperandMustBeZeroBits :
    (∀ w ∈ [(0x02#32, 0x100#32), (0x40#32, 0x100#32), (0x13#32, 0x200#32), (0x41#32, 2#32)],
      ∃ s : State, s.Completing ∧ s.fatal = false ∧ s.pendCmd = w.1 ∧ s.pendArg = w.2) ∧
    formOf .buildTree = .none ∧ decode ⟨0x22#32, 0#32⟩ = .ok .buildTree :=
  ⟨fun w _ => ⟨issued .reset w.1 w.2, issued_completing rfl rfl _ _, rfl, rfl, rfl⟩, rfl, by decide⟩

/-- The words next to SOFT_RESET's. -/
theorem witness_FatalStateLocksEveryOtherWord :
    ∀ w ∈ [0x000000FE#32, 0x000001FF#32, 0x00000000#32], ∃ s : State, s.Completing ∧ s.fatal = true ∧ s.pendCmd = w ∧ w ≠ 0x000000FF#32 := by
  intro w hw
  refine ⟨issued sFatal w 0#32, issued_completing rfl rfl _ _, rfl, rfl, ?_⟩
  rintro rfl
  simp at hw

/-- A pending command, an idle engine, and the host's turn with an access, a WAIT (at rest and busy) and nothing left. -/
theorem witness_StepRunsThePendingCommand :
    (∃ s : State, s.Completing ∧ decode ⟨s.pendCmd, s.pendArg⟩ = .ok (.pqRemoveAt 511#9)) ∧
      (∃ s : State, s.nextTurn = .engine ∧ s.pend = false) ∧
      (∃ s : State, s.nextTurn = .host ∧ s.host = .access (readAccess .id) :: []) ∧
      (∀ b, ∃ s : State, s.nextTurn = .host ∧ s.resetIn = false ∧ s.host = .wait :: [] ∧ s.pend = b) ∧
      ∃ s : State, s.nextTurn = .host ∧ s.host = [] :=
  ⟨⟨issued sLeaves 0x13#32 0x1FF#32, issued_completing rfl rfl _ _, by decide⟩, ⟨{ State.reset with sched := [.engine] }, rfl, rfl⟩,
    ⟨{ State.reset with host := Prog.rd .id }, rfl, rfl⟩, fun b => ⟨{ State.reset with sched := [.host], host := [.wait], pend := b }, rfl, rfl, rfl, rfl⟩,
    ⟨State.reset, rfl, rfl⟩⟩

/-- The last count and the overflow, a fresh symbol, the first and the last entry's symbol. -/
theorem witness_MapCountCountsOneOccurrence :
    { sMap with total := 0xFFFFFFFF#32 }.total = 0xFFFFFFFF#32 ∧ { sMap with total := 0xFFFFFFFE#32 }.total ≠ 0xFFFFFFFF#32 ∧
      (∀ e ∈ sMap.map, e.sym ≠ 0x63#8) ∧ sMap.map = [] ++ ⟨0x61#8, 2#32⟩ :: [⟨0x62#8, 1#32⟩] ∧
      sMap.map = [⟨0x61#8, 2#32⟩] ++ ⟨0x62#8, 1#32⟩ :: [] ∧ ∀ x ∈ [MapEntry.mk 0x61#8 2#32], x.sym ≠ 0x62#8 := by decide

theorem witness_PqRemoveFirstTakesTheFirstEntry : State.reset.list = [] ∧ sLeaves.list = 3 :: [4, 1, 2, 0] := by decide

/-- The first and the last position, and the first position out of range. -/
theorem witness_PqRemoveAtRemovesByPosition :
    sLeaves.list = [] ++ 3 :: [4, 1, 2, 0] ∧ ([] : List NodeIdx).length = (0#9).toNat ∧ sLeaves.list = [3, 4, 1, 2] ++ 0 :: [] ∧
      [3, 4, 1, 2].length = (4#9).toNat ∧ sLeaves.list ≠ [] ∧ sLeaves.list.length ≤ (5#9).toNat ∧ State.reset.list = [] := by decide

/-- Lists of no, one and two entries. -/
theorem witness_PqMergeStepMergesTheTwoFirst :
    State.reset.list.length < 2 ∧ { sTree with list := [2] }.list.length < 2 ∧ { sTree with list := [0, 1] }.list = 0 :: 1 :: [] := by decide

theorem witness_PqExtractRootTakesTheSingleEntry :
    State.reset.list = [] ∧ { sTree with list := [2] }.list = [2] ∧ 1 < { sTree with list := [0, 1] }.list.length := by decide

theorem witness_BuildTreeBuildsOneTree : State.reset.map = [] ∧ sMap.map ≠ [] ∧ { sMap with map := [⟨0x61#8, 1#32⟩] }.map ≠ [] := by decide

/-- BuildTreeIsLoadMergeExtract. -/
theorem witness_BuildTreeIsLoadMergeExtract : sLeaves.fatal = false ∧ sLeaves.map ≠ [] := by decide

theorem witness_BuildCodesEdgeTables :
    State.reset.root = none ∧ { sTree with root := some 0 }.root = some 0 ∧ sTree.nodes[0]? = some (.leaf 0x61#8 2#32) := by decide

/-- The map of "aabb". -/
theorem sTree_mapInv : sTree.MapInv := ⟨by decide, by decide, by decide⟩

/-- The tree of "aabb". -/
theorem sTree_treeInv : sTree.TreeInv :=
  ⟨by decide, by decide, by decide, List.Pairwise.nil, by decide, by decide, by decide, by decide⟩

/-- The loaded leaves of "abracadabra". -/
theorem sLeaves_treeInv : sLeaves.TreeInv :=
  ⟨by decide, by decide, by decide, by unfold State.before; decide, by decide, by decide, by decide, by decide⟩

theorem sLeaves_mapInv : sLeaves.MapInv := ⟨by decide, by decide, by decide⟩

/-- A single entry whose count is the greatest. -/
theorem greatest_mapInv : State.MapInv { State.reset with map := [⟨0x61#8, 0xFFFFFFFF#32⟩], total := 0xFFFFFFFF#32 } :=
  ⟨by decide, by decide, by decide⟩

theorem witness_BuildCodesRecordsThePaths :
    sTree.fatal = false ∧ sTree.TreeInv ∧ sTree.root = some 2 ∧ sTree.nodes[2]? = some (.internal 4#32 0 1) :=
  ⟨rfl, sTree_treeInv, rfl, rfl⟩

/-- The codes of the table of the tests. -/
theorem sTable_codes : sTable.ct.codes = [[false], [true, false, false]] := by decide +kernel

theorem sTable_prefixFree : sTable.ct.PrefixFree := by
  unfold CodeTable.PrefixFree
  rw [sTable_codes]
  decide

theorem witness_EncodeLooksUpTheCode : sTable.ct.entry 0x62#8 = none ∧ sTable.ct.entry 0x63#8 = some [true, false, false] := by
  decide +kernel

/-- A bit that completes no code, and one that completes exactly one. -/
theorem witness_DecBitExtendsOrEmits :
    (∀ x, { sTable with cand := [true] }.ct.entry x ≠ some ([true] ++ [true])) ∧
      { sTable with cand := [true, false] }.ct.entry 0x63#8 = some ([true, false] ++ [false]) ∧
      ∀ x, { sTable with cand := [true, false] }.ct.entry x = some ([true, false] ++ [false]) → x = 0x63#8 := by
  have hct : ∀ x, sTable.ct.entry x = if x = 0x63#8 then some [true, false, false] else if x = 0x61#8 then some [false] else none := by
    intro x
    rw [show sTable.ct = (CodeTable.empty.record 0x61#8 [false]).record 0x63#8 [true, false, false] from rfl, CodeTable.entry_record,
      CodeTable.entry_record, CodeTable.entry_empty]
  refine ⟨fun x => ?_, ?_, fun x hx => ?_⟩
  · rw [hct]; split
    · decide
    · split <;> decide
  · rw [hct]; rfl
  · rw [hct] at hx
    split at hx
    · assumption
    · split at hx <;> simp at hx

theorem witness_DecEndReportsAnOpenCandidate : sTable.cand = [] ∧ { sTable with cand := [true] }.cand ≠ [] := by decide

/-- A fatal error, an ordinary one, and EMPTY_INPUT. -/
theorem witness_ErrorsChangeOnlyTheReport :
    (∃ t, exec .pqMergeStep State.reset = .next t ∧ t.errCode = .underflowViolation) ∧
      (∃ t, exec .decEnd { sTable with cand := [true] } = .next t ∧ t.errCode = .decodeExhaustion) ∧
      ∃ t, exec .buildTree State.reset = .next t ∧ t.errCode = .emptyInput :=
  ⟨⟨_, rfl, rfl⟩, ⟨_, rfl, rfl⟩, ⟨_, rfl, rfl⟩⟩

/-- A command that completes, in a fatal state and in another, and a state with each error code. -/
theorem witness_ErrorCodesOfEachCommand :
    (∃ t, exec .nop sFatal = .next t ∧ t.errCode = .fatalLocked) ∧
      (∃ t, exec (.pqRemoveAt 5#9) sLeaves = .next t ∧ t.errCode = .indexRange) ∧ ∀ e : ErrCode, ∃ s : State, s.errCode = e :=
  ⟨⟨_, rfl, rfl⟩, ⟨_, rfl, rfl⟩, fun e => ⟨{ State.reset with errCode := e }, rfl⟩⟩

/-- An error sets ERR; reset, SOFT_RESET and a write to STATUS clear it. -/
theorem witness_ErrIsSticky :
    (∃ s t : State, s.Completing ∧ step s = .next t ∧ t.errCode ≠ .none) ∧
      ∀ s ∈ [{ sFatal with sched := [.assertReset] }, issued sFatal 0xFF#32 0#32,
          { sFatal with host := [.access (.write .word 0x010#12 2#32)] }],
        ∃ t, step s = .next t ∧ s.err = true ∧ t.err = false := by
  refine ⟨⟨issued .reset 0x12#32 0#32, _, issued_completing rfl rfl _ _, rfl, by decide⟩, fun s hs => ?_⟩
  simp only [List.mem_cons, List.not_mem_nil, or_false] at hs
  rcases hs with rfl | rfl | rfl <;> exact ⟨_, rfl, rfl, rfl⟩

/-- FATAL is left by reset and by SOFT_RESET, and set by PQ_REMOVE_FIRST on an empty list. -/
theorem witness_FatalIsLeftOnlyByReset :
    (∀ s ∈ [{ sFatal with sched := [.assertReset] }, issued sFatal 0xFF#32 0#32],
        ∃ t, step s = .next t ∧ s.fatal = true ∧ t.fatal = false) ∧
      ∃ t, step (issued .reset 0x12#32 0#32) = .next t ∧ (issued .reset 0x12#32 0#32).fatal = false ∧ t.fatal = true := by
  refine ⟨fun s hs => ?_, _, rfl, rfl, rfl⟩
  simp only [List.mem_cons, List.not_mem_nil, or_false] at hs
  rcases hs with rfl | rfl <;> exact ⟨_, rfl, rfl, rfl⟩

/-- A map command, a decoder command, an encoder command, BUILD_CODES. -/
theorem witness_NoCommandInvalidatesAnotherStage :
    (∃ t, exec (.mapCount 0x61#8) sTree = .next t) ∧ (∃ t, exec .decClear sTree = .next t) ∧ (∃ t, exec (.encode 0x63#8) sTable = .next t) ∧
      ∃ t, exec .buildCodes sTree = .next t ∧ t.ct.entry 0x61#8 ≠ sTree.ct.entry 0x61#8 :=
  ⟨⟨_, rfl⟩, ⟨_, rfl⟩, ⟨_, rfl⟩, _, rfl, by decide +kernel⟩

theorem witness_ResultRegistersHaveTheirWriters :
    (∃ t, exec (.decBit false) sTable = .next t ∧ t.resSym ≠ sTable.resSym) ∧ (∃ t, exec (.encode 0x63#8) sTable = .next t ∧ t.resLen ≠ sTable.resLen) ∧
      ∃ t, exec .pqMergeStep sLeaves = .next t ∧ t.resNode ≠ sLeaves.resNode :=
  ⟨⟨_, rfl, by decide +kernel⟩, ⟨_, rfl, by decide +kernel⟩, ⟨_, rfl, by decide⟩⟩

/-- Two machines that share only their maps. -/
theorem witness_BuildTreeDependsOnTheMapOnly :
    ∃ s s' : State, s.fatal = false ∧ s'.fatal = false ∧ s.map = s'.map ∧ s.nodes ≠ s'.nodes :=
  ⟨sTree, { State.reset with map := sTree.map }, rfl, rfl, rfl, by decide⟩

theorem witness_CountingCountsEveryOccurrence : ∃ syms : List Sym, syms.length < 2 ^ 32 ∧ syms = [0x61#8, 0x62#8, 0x61#8] :=
  ⟨_, by decide, rfl⟩

/-- EverySymbolOfTheMapGetsACode and CodeLengthsMeetKraftEquality: two entries, and one. -/
theorem witness_EverySymbolOfTheMapGetsACode :
    (sTree.fatal = false ∧ sTree.MapInv ∧ sTree.map.length = 2) ∧
      ∃ s : State, s.fatal = false ∧ s.MapInv ∧ s.map ≠ [] ∧ s.map.length = 1 :=
  ⟨⟨rfl, sTree_mapInv, rfl⟩, _, rfl, greatest_mapInv, by decide, rfl⟩

theorem witness_CodeLengthsMeetKraftEquality : ∃ s : State, s.fatal = false ∧ s.MapInv ∧ s.map ≠ [] ∧ s.map.length ≠ 1 :=
  ⟨sLeaves, rfl, sLeaves_mapInv, by decide, by decide⟩

/-- Every symbol has a code; some symbol has none. -/
theorem witness_EncodeStreamConcatenatesTheCodes :
    sTable.fatal = false ∧ (∀ c ∈ sTable.ct.codes, c.length ≤ 255) ∧ (∀ x ∈ [0x61#8, 0x63#8, 0x61#8], sTable.ct.entry x ≠ none) ∧
      ∃ x ∈ [0x61#8, 0x62#8], sTable.ct.entry x = none := by
  refine ⟨rfl, ?_, by decide +kernel, by decide +kernel⟩
  rw [sTable_codes]
  decide

theorem witness_DecodeInvertsEncode :
    sTable.fatal = false ∧ sTable.ct.PrefixFree ∧ (∀ c ∈ sTable.ct.codes, c ≠ [] ∧ c.length ≤ 255) ∧
      ∀ x ∈ [0x61#8, 0x63#8, 0x61#8], sTable.ct.entry x ≠ none := by
  refine ⟨rfl, sTable_prefixFree, ?_, by decide +kernel⟩
  rw [sTable_codes]
  decide

theorem witness_RoundTripLaw : ∃ (s : State) (syms : List Sym), s.fatal = false ∧ syms ≠ [] ∧ syms.length < 2 ^ 32 :=
  ⟨sTable, [0x61#8, 0x62#8, 0x62#8], rfl, by decide, by decide⟩

/-- A table and a candidate that has not run past a code. -/
theorem sTable_tableInv : State.TableInv { sTable with cand := [true, false] } := by
  refine ⟨sTable_prefixFree, ?_, ?_⟩ <;>
    · show ∀ c ∈ sTable.ct.codes, _
      rw [sTable_codes]
      decide

/-- StepKeepsTheMapInvariant: a step from a state that meets MapInv. -/
theorem witness_StepKeepsTheMapInvariant : ∃ s t : State, s.MapInv ∧ step s = .next t ∧ t.map ≠ s.map :=
  ⟨issued sTree 0x02#32 0x63#32, _, ⟨by decide, by decide, by decide⟩, rfl, by decide⟩

/-- StepKeepsTheTableInvariant: a step from a state that meets TableInv. -/
theorem witness_StepKeepsTheTableInvariant : ∃ s t : State, s.TableInv ∧ step s = .next t ∧ t.cand ≠ s.cand :=
  ⟨issued { sTable with cand := [true, false] } 0x43#32 0#32, _,
    ⟨sTable_tableInv.prefixFree, sTable_tableInv.codesNonempty, sTable_tableInv.candidateUnmatched⟩, rfl, by decide⟩

/-- The loaded leaves of "abracadabra" meet the whole invariant. -/
theorem sLeaves_inv : (issued sLeaves 0x20#32 0#32).Inv where
  mapInv := ⟨sLeaves_mapInv.1, sLeaves_mapInv.2, sLeaves_mapInv.3⟩
  treeInv := ⟨sLeaves_treeInv.1, sLeaves_treeInv.2, sLeaves_treeInv.3, sLeaves_treeInv.4, sLeaves_treeInv.5, sLeaves_treeInv.6,
    sLeaves_treeInv.7, sLeaves_treeInv.8⟩
  tableInv := by
    have hn : (issued sLeaves 0x20#32 0#32).ct.codes = [] := by decide +kernel
    refine ⟨?_, ?_, ?_⟩
    · unfold CodeTable.PrefixFree; rw [hn]; exact List.Pairwise.nil
    · rw [hn]; simp
    · rw [hn]; simp
  codesFit := by
    have hn : (issued sLeaves 0x20#32 0#32).ct.codes = [] := by decide +kernel
    rw [hn]; simp
  resetInv := fun h => Bool.noConfusion h

/-- StepKeepsTheInvariant: PQ_MERGE_STEP on the loaded leaves. -/
theorem witness_StepKeepsTheInvariant : ∃ s t : State, s.Inv ∧ step s = .next t ∧ t.nodes ≠ s.nodes :=
  ⟨_, _, sLeaves_inv, rfl, by decide⟩

/-- Each width, and each offset within a word. -/
theorem witness_NarrowOrUnalignedAccessIsRefused :
    ∀ p ∈ [(Width.byte, 0x010#12), (.half, 0x010#12), (.word, 0x011#12), (.word, 0x012#12), (.word, 0xFFF#12)],
      p.1 ≠ .word ∨ p.2.toNat % 4 ≠ 0 := by decide

theorem witness_ReadsHaveNoSideEffects : State.reset.pend = false := rfl

/-- The first and the last reserved offset, and a read-only register, on a machine at rest. -/
theorem witness_RegisterMapAndReservedOffsets :
    State.reset.resetIn = false ∧ State.reset.pend = false ∧ (∀ off ∈ [0x0D0#12, 0xFFC#12], off.toNat % 4 = 0 ∧ 0x0D0 ≤ off.toNat) ∧
      Reg.ofOffset 0x00C#12 = some .arg ∧
      Reg.candBits 7 ∉ [Reg.cmd, Reg.arg, Reg.status, Reg.mapIdx, Reg.pqIdx, Reg.nodeIdx, Reg.ctSym] := by
  decide +kernel

/-- OVERRUN is cleared by reset, by SOFT_RESET and by a write to STATUS. -/
theorem witness_CmdWriteWhileBusyOverruns :
    ∀ s ∈ [{ sFatal with overrun := true, sched := [.assertReset] }, issued { sFatal with overrun := true } 0xFF#32 0#32,
        { sFatal with overrun := true, host := [.access (.write .word 0x010#12 8#32)] }],
      ∃ t, step s = .next t ∧ s.overrun = true ∧ t.overrun = false := by
  intro s hs
  simp only [List.mem_cons, List.not_mem_nil, or_false] at hs
  rcases hs with rfl | rfl | rfl <;> exact ⟨_, rfl, rfl, rfl⟩

/-- StatusBits, StatusWriteClearsStickyBits, CmdWriteIssuesACommand, CmdWriteWhileBusyOverruns, ReadsWhileBusy,
ArgAndIndexRegistersStoreTheirBits: reset released, at rest and busy. -/
theorem witness_access_states :
    (sLeaves.resetIn = false ∧ sLeaves.pend = false) ∧ (issued sLeaves 0x20#32 0#32).resetIn = false ∧
      (issued sLeaves 0x20#32 0#32).pend = true := ⟨⟨rfl, rfl⟩, rfl, rfl⟩

/-- The last element in range and the first index out of range, for the map, the list, and the arena (a leaf and an internal
node); ROOT absent and present. -/
theorem witness_WindowsShowTheSelectedElement :
    sMap.map[(1#9).toNat]? = some ⟨0x62#8, 1#32⟩ ∧ sMap.map.length ≤ (2#9).toNat ∧ sLeaves.list[(4#9).toNat]? = some 0 ∧
      sLeaves.list.length ≤ (5#9).toNat ∧ sTree.nodes[(1#9).toNat]? = some (.leaf 0x62#8 2#32) ∧
      sTree.nodes[(2#9).toNat]? = some (.internal 4#32 0 1) ∧ sTree.nodes.length ≤ (3#9).toNat ∧
      State.reset.root = none ∧ { sTree with root := some 510 }.root = some 510 ∧ sLeaves.map.length < 512 ∧ sLeaves.list.length < 512 ∧
      sLeaves.nodes.length < 512 := by decide

/-- A symbol with a code, one without, and the last bit of the last word. -/
theorem witness_CodeWordsHoldTheBitsInOrder :
    (31 < 32 ∧ 32 * (7 : Fin 8).val + 31 = 255) ∧ { sTable with ctSym := 0x63#8 }.ct.entry 0x63#8 = some [true, false, false] ∧
      { sTable with ctSym := 0x62#8 }.ct.entry 0x62#8 = none := by decide +kernel

/-- The reset input's two edges, and the engine's turn while reset is asserted. -/
theorem witness_ResetInputHoldsTheResetState :
    { issued sMap 0x02#32 0#32 with sched := [.assertReset] }.nextTurn = .assertReset ∧
      { State.reset with resetIn := true, sched := [.releaseReset] }.nextTurn = .releaseReset ∧
      { State.reset with resetIn := true, sched := [.engine] }.nextTurn = .engine ∧
      { State.reset with resetIn := true, sched := [.engine] }.resetIn = true := ⟨rfl, rfl, rfl, rfl⟩

/-- A pending command behind two host turns. -/
theorem witness_PendingCommandCompletes :
    ∃ s : State, s.pend = true ∧ s.resetIn = false ∧ .assertReset ∉ s.sched ∧ s.sched.length = 2 :=
  ⟨{ issued sMap 0x01#32 0#32 with sched := [.host, .host] }, rfl, rfl, by decide, rfl⟩

theorem witness_BackToBackWritesHaveBothRuns :
    ∃ s : State, s.resetIn = false ∧ s.pend = false ∧ s.fatal = false ∧ s.overrun = false ∧
      s.host = Prog.wr .cmd 0#32 ++ (Prog.wr .cmd 0#32 ++ Prog.rd .status) :=
  ⟨{ State.reset with host := Prog.wr .cmd 0#32 ++ (Prog.wr .cmd 0#32 ++ Prog.rd .status) }, rfl, rfl, rfl, rfl, rfl⟩

end Sys2Proof.Tests
end

section
/-! What a command's effect and a step leave alone, said once per group of fields (10_state section 3; 20_memory R47). -/

namespace Sys2Proof.Machine

/-! ## The commands on LIST, the arena and ROOT -/

/-- From `s` to `t` only LIST, the arena, ROOT and RES_NODE may differ, all that a command of 41_priority_list or 42_tree_builder
writes. -/
def State.OnlyTree (s t : State) : Prop :=
  t = { s with list := t.list, nodes := t.nodes, root := t.root, resNode := t.resNode }

namespace State.OnlyTree

variable {s t u : State}

theorem trans (h : s.OnlyTree t) (h' : t.OnlyTree u) : s.OnlyTree u := by
  unfold OnlyTree at *
  rw [h', h]

theorem map (h : s.OnlyTree t) : t.map = s.map := by rw [h]
theorem total (h : s.OnlyTree t) : t.total = s.total := by rw [h]
theorem ct (h : s.OnlyTree t) : t.ct = s.ct := by rw [h]
theorem cand (h : s.OnlyTree t) : t.cand = s.cand := by rw [h]
theorem resSym (h : s.OnlyTree t) : t.resSym = s.resSym := by rw [h]
theorem resLen (h : s.OnlyTree t) : t.resLen = s.resLen := by rw [h]
theorem resCode (h : s.OnlyTree t) : t.resCode = s.resCode := by rw [h]

theorem sameHostSide (h : s.OnlyTree t) : s.SameHostSide t := by
  rw [h]
  constructor <;> rfl

end State.OnlyTree

/-- The commands of 41_priority_list and 42_tree_builder, which work on LIST, the arena and ROOT. -/
def writesTree : Instr → Bool
  | .pqClear | .pqLoadLeaves | .pqRemoveFirst | .pqRemoveAt _ | .pqMergeStep | .pqExtractRoot | .buildTree => true
  | .nop | .mapClear | .mapCount _ | .buildCodes | .encode _ | .decBit _ | .decEnd | .decClear | .softReset => false

theorem State.onlyTree_loadLeaves (s : State) : s.OnlyTree s.loadLeaves := by
  unfold OnlyTree
  rw [loadLeaves_frame s]

theorem State.onlyTree_mergeStep (s : State) : s.OnlyTree s.mergeStep := by
  unfold OnlyTree
  rw [mergeStep_frame s]

theorem State.onlyTree_mergeWhile (fuel : Nat) (s : State) : s.OnlyTree (mergeWhile fuel s) := by
  unfold OnlyTree
  rw [mergeWhile_frame fuel s]

theorem State.extractRoot_of_nil {s : State} (h : s.list = []) : s.extractRoot = s := by
  simp [extractRoot, lGet, h]

theorem State.extractRoot_of_cons {s : State} {n : NodeIdx} {rest : List NodeIdx} (h : s.list = n :: rest) :
    s.extractRoot = { s with list := rest, root := some n, resNode := BitVec.ofNat 9 n } := by
  simp [extractRoot, lGet, h, lRemoveAt, holdRoot, returnNode]

theorem State.onlyTree_extractRoot (s : State) : s.OnlyTree s.extractRoot := by
  cases h : s.list with
  | nil => rw [extractRoot_of_nil h]; rfl
  | cons n rest => rw [extractRoot_of_cons h]; rfl

/-- PQ_REMOVE_FIRST takes an entry and returns it, or finds none (41_priority_list R119). -/
theorem effect_pqRemoveFirst_cases (s : State) :
    effect .pqRemoveFirst s = s ∨ ∃ n, effect .pqRemoveFirst s = (s.lRemoveAt 0).returnNode n := by
  cases h : s.lGet 0 with
  | none => exact .inl (by simp [effect, h])
  | some n => exact .inr ⟨n, by simp [effect, h, State.lRemoveFirst]⟩

/-- PQ_REMOVE_AT takes an entry and returns it, or finds none (41_priority_list R120). -/
theorem effect_pqRemoveAt_cases (idx : BitVec 9) (s : State) :
    effect (.pqRemoveAt idx) s = s ∨ ∃ n, effect (.pqRemoveAt idx) s = (s.lRemoveAt idx.toNat).returnNode n := by
  cases h : s.lGet idx.toNat with
  | none => exact .inl (by simp [effect, h])
  | some n => exact .inr ⟨n, by simp [effect, h]⟩

theorem effect_onlyTree {i : Instr} (h : writesTree i = true) (s : State) : s.OnlyTree (effect i s) := by
  cases i <;> simp [writesTree] at h
  case pqClear => rfl
  case pqLoadLeaves => exact s.onlyTree_loadLeaves
  case pqRemoveFirst => rcases effect_pqRemoveFirst_cases s with h | ⟨n, h⟩ <;> rw [h] <;> rfl
  case pqRemoveAt idx => rcases effect_pqRemoveAt_cases idx s with h | ⟨n, h⟩ <;> rw [h] <;> rfl
  case pqMergeStep => exact s.onlyTree_mergeStep
  case pqExtractRoot => exact s.onlyTree_extractRoot
  case buildTree =>
    exact (s.onlyTree_loadLeaves.trans (State.onlyTree_mergeWhile _ _)).trans (State.onlyTree_extractRoot _)

/-! ## What each command's effect leaves alone -/

/-- ENCODE writes the code it finds to the result registers, or finds none (44_codec R150). -/
theorem effect_encode_cases (sym : Sym) (s : State) :
    effect (.encode sym) s = s ∨
      ∃ c, effect (.encode sym) s = { s with resLen := BitVec.ofNat 8 c.length, resCode := packBits c } := by
  cases h : s.ct.entry sym with
  | none => exact .inl (by simp [effect, h])
  | some c => exact .inr ⟨c, by simp [effect, h]⟩

/-- DEC_BIT emits a symbol and empties the candidate, or no code matches and the candidate grows (44_codec R153). -/
theorem effect_decBit_cases (b : Bool) (s : State) :
    (∃ sym, effect (.decBit b) s = { s with resSym := sym, resValid := true, cand := [] }) ∨
      (matchCode s.ct (s.cand ++ [b]) = none ∧ effect (.decBit b) s = { s with resValid := false, cand := s.cand ++ [b] }) := by
  cases h : matchCode s.ct (s.cand ++ [b]) with
  | none => exact .inr ⟨rfl, by simp [effect, h]⟩
  | some sym => exact .inl ⟨sym, by simp [effect, h]⟩

theorem effect_sameHostSide (i : Instr) (s : State) : s.SameHostSide (effect i s) := by
  cases ht : writesTree i with
  | true => exact (effect_onlyTree ht s).sameHostSide
  | false =>
    cases i <;> simp [writesTree] at ht
    case encode sym => rcases effect_encode_cases sym s with h | ⟨c, h⟩ <;> rw [h] <;> constructor <;> rfl
    case decBit b => rcases effect_decBit_cases b s with ⟨sym, h⟩ | ⟨-, h⟩ <;> rw [h] <;> constructor <;> rfl
    all_goals constructor <;> rfl

theorem effect_map {i : Instr} (s : State) (hc : i ≠ .mapClear) (hn : ∀ x, i ≠ .mapCount x) (hr : i ≠ .softReset) :
    (effect i s).map = s.map ∧ (effect i s).total = s.total := by
  cases ht : writesTree i with
  | true => exact ⟨(effect_onlyTree ht s).map, (effect_onlyTree ht s).total⟩
  | false =>
    cases i <;> simp [writesTree] at ht hc hn hr
    case encode sym => rcases effect_encode_cases sym s with h | ⟨c, h⟩ <;> rw [h] <;> exact ⟨rfl, rfl⟩
    case decBit b => rcases effect_decBit_cases b s with ⟨sym, h⟩ | ⟨-, h⟩ <;> rw [h] <;> exact ⟨rfl, rfl⟩
    all_goals exact ⟨rfl, rfl⟩

theorem effect_tree {i : Instr} (s : State) (ht : writesTree i = false) (hr : i ≠ .softReset) :
    (effect i s).list = s.list ∧ (effect i s).nodes = s.nodes ∧ (effect i s).root = s.root := by
  cases i <;> simp [writesTree] at ht hr
  case encode sym => rcases effect_encode_cases sym s with h | ⟨c, h⟩ <;> rw [h] <;> exact ⟨rfl, rfl, rfl⟩
  case decBit b => rcases effect_decBit_cases b s with ⟨sym, h⟩ | ⟨-, h⟩ <;> rw [h] <;> exact ⟨rfl, rfl, rfl⟩
  all_goals exact ⟨rfl, rfl, rfl⟩

theorem effect_ct {i : Instr} (s : State) (hb : i ≠ .buildCodes) (hr : i ≠ .softReset) : (effect i s).ct = s.ct := by
  cases ht : writesTree i with
  | true => exact (effect_onlyTree ht s).ct
  | false =>
    cases i <;> simp [writesTree] at ht hb hr
    case encode sym => rcases effect_encode_cases sym s with h | ⟨c, h⟩ <;> rw [h]
    case decBit b => rcases effect_decBit_cases b s with ⟨sym, h⟩ | ⟨-, h⟩ <;> rw [h]
    all_goals rfl

theorem effect_cand {i : Instr} (s : State) (hb : i ≠ .buildCodes) (hd : ∀ b, i ≠ .decBit b) (hc : i ≠ .decClear)
    (hr : i ≠ .softReset) : (effect i s).cand = s.cand := by
  cases ht : writesTree i with
  | true => exact (effect_onlyTree ht s).cand
  | false =>
    cases i <;> simp [writesTree] at ht hb hd hc hr
    case encode sym => rcases effect_encode_cases sym s with h | ⟨c, h⟩ <;> rw [h]
    all_goals rfl

/-! ## The containers through a command and through a step -/

/-- `t` holds the MAP, TOTAL, LIST, arena, ROOT, CT and CAND of `s` (10_state R32 to R38). -/
structure State.SameContainers (s t : State) : Prop where
  map : t.map = s.map
  total : t.total = s.total
  list : t.list = s.list
  nodes : t.nodes = s.nodes
  root : t.root = s.root
  ct : t.ct = s.ct
  cand : t.cand = s.cand

theorem State.SameContainers.trans {s t u : State} (h : s.SameContainers t) (h' : t.SameContainers u) : s.SameContainers u :=
  ⟨h'.map.trans h.map, h'.total.trans h.total, h'.list.trans h.list, h'.nodes.trans h.nodes, h'.root.trans h.root,
    h'.ct.trans h.ct, h'.cand.trans h.cand⟩

/-- A command's three endings, as far as the containers go: untouched, the tree emptied (EMPTY_INPUT), or the command's effect. -/
theorem exec_containers {i : Instr} {s t : State} (h : exec i s = .next t) :
    s.SameContainers t ∨ s.clearTree.SameContainers t ∨ (check i s = none ∧ (effect i s).SameContainers t) := by
  rcases exec_cases h with ⟨-, -, rfl⟩ | ⟨-, ⟨e, -, rfl⟩ | ⟨hc, rfl⟩⟩
  · exact .inl (by constructor <;> rfl)
  · unfold afterError
    split
    · exact .inr (.inl (by constructor <;> rfl))
    · exact .inl (by constructor <;> rfl)
  · exact .inr (.inr ⟨hc, by constructor <;> rfl⟩)

/-- The host's turn touches no container. -/
theorem hostTurn_sameContainers (s : State) : s.SameContainers s.hostTurn := by
  cases h : s.host with
  | nil => rw [hostTurn_nil h]; constructor <;> rfl
  | cons op rest => rw [hostTurn_eq h, busAccess_frame]; constructor <;> rfl

/-- A step, as far as the containers go: untouched, a command, or reset. -/
theorem step_containers {s t : State} (h : step s = .next t) :
    s.SameContainers t ∨ (∃ i u, s.SameContainers u ∧ exec i u = .next t) ∨ State.reset.SameContainers t := by
  have hpop : s.SameContainers s.popSched := by constructor <;> rfl
  rcases step_cases h with ⟨-, rfl⟩ | ⟨-, -, hc⟩ | ⟨-, -, rfl⟩ | ⟨-, rfl⟩ | ⟨-, rfl⟩
  · exact .inl (hpop.trans (hostTurn_sameContainers _))
  · rcases complete_cases hc with ⟨i, -, hi⟩ | ⟨e, -, rfl⟩
    · exact .inr (.inl ⟨i, _, by constructor <;> rfl, hi⟩)
    · exact .inl (by constructor <;> rfl)
  · exact .inl hpop
  · exact .inr (.inr (by constructor <;> rfl))
  · exact .inl (by constructor <;> rfl)

/-- What makes a property an invariant of the containers: it speaks of them alone, reset meets it, and emptying the tree and every
command's effect keep it. -/
structure ContainerInvariant (P : State → Prop) : Prop where
  congr : ∀ {s t : State}, s.SameContainers t → P s → P t
  reset : P State.reset
  clearTree : ∀ {s : State}, P s → P s.clearTree
  effect : ∀ {i : Instr} {s : State}, check i s = none → P s → P (effect i s)

theorem ContainerInvariant.step {P : State → Prop} (hP : ContainerInvariant P) {s t : State} (hs : P s)
    (h : step s = .next t) : P t := by
  rcases step_containers h with hst | ⟨i, u, hsu, hu⟩ | hr
  · exact hP.congr hst hs
  · have hPu := hP.congr hsu hs
    rcases exec_containers hu with ht | ht | ⟨hc, ht⟩
    · exact hP.congr ht hPu
    · exact hP.congr ht (hP.clearTree hPu)
    · exact hP.congr ht (hP.effect hc hPu)
  · exact hP.congr hr hP.reset

/-! ## The whole of a command's completion -/

theorem State.SameHostSide.trans {s t u : State} (h : s.SameHostSide t) (h' : t.SameHostSide u) : s.SameHostSide u where
  arg := h'.arg.trans h.arg
  mapIdx := h'.mapIdx.trans h.mapIdx
  pqIdx := h'.pqIdx.trans h.pqIdx
  nodeIdx := h'.nodeIdx.trans h.nodeIdx
  ctSym := h'.ctSym.trans h.ctSym
  pend := h'.pend.trans h.pend
  resetIn := h'.resetIn.trans h.resetIn
  host := h'.host.trans h.host
  sched := h'.sched.trans h.sched
  replies := h'.replies.trans h.replies
  draws := h'.draws.trans h.draws

theorem raised_sameHostSide (s : State) (e : ErrCode) : s.SameHostSide (s.raised e) := by
  constructor <;> rfl

theorem succeeded_sameHostSide (s : State) : s.SameHostSide s.succeeded := by
  constructor <;> rfl

theorem afterError_sameHostSide (i : Instr) (s : State) : s.SameHostSide (afterError i s) := by
  unfold afterError
  split <;> constructor <;> rfl

/-- No command writes what belongs to the host (10_state R14, R27). -/
theorem exec_sameHostSide {i : Instr} {s t : State} (h : exec i s = .next t) : s.SameHostSide t := by
  rcases exec_cases h with ⟨-, -, rfl⟩ | ⟨-, ⟨e, -, rfl⟩ | ⟨-, rfl⟩⟩
  · exact raised_sameHostSide s _
  · exact (afterError_sameHostSide i s).trans (raised_sameHostSide _ e)
  · exact (effect_sameHostSide i s).trans (succeeded_sameHostSide _)

/-- Every command answers a next state (70_reset R219). -/
theorem exec_answers_next (i : Instr) (s : State) : ∃ t, exec i s = .next t := by
  rw [exec_eq]
  split
  · exact ⟨_, rfl⟩
  · split <;> exact ⟨_, rfl⟩

/-- Settles O27: every ending of a command keeps the host's side. -/
theorem everyCommandCompletes : Obligations.EveryCommandCompletes := by
  intro i s
  obtain ⟨t, ht⟩ := exec_answers_next i s
  exact ⟨t, ht, exec_sameHostSide ht⟩

end Sys2Proof.Machine
end

section
/-! The code table and the candidate through every step (10_state R37; 43_code_table R143; 44_codec R153). -/

namespace Sys2Proof.Machine

/-! ## VISIT's table -/

section
variable {s : State} {n : NodeIdx} (fuel : Nat) (path : Bits) (ct : CodeTable)

/-- VISIT at a leaf records the path (43_code_table R142). -/
theorem visit_of_leaf {sym : Sym} {f : Count} (h : s.node n = .leaf sym f) :
    visit s (fuel + 1) n path ct = ct.record sym path := by
  simp [visit, h]

/-- VISIT at an internal node goes left and then right (43_code_table R142). -/
theorem visit_of_internal {f : Count} {l r : NodeIdx} (h : s.node n = .internal f l r) :
    visit s (fuel + 1) n path ct = visit s fuel r (path ++ [true]) (visit s fuel l (path ++ [false]) ct) := by
  simp [visit, h]

end

/-- An entry of VISIT's table was there before or extends the path VISIT was called with. -/
theorem entry_visit {s : State} {fuel : Nat} {n : NodeIdx} {path : Bits} {ct : CodeTable} {x : Sym} {c : Bits}
    (h : (visit s fuel n path ct).entry x = some c) : ct.entry x = some c ∨ path <+: c := by
  induction fuel generalizing n path ct with
  | zero => exact .inl h
  | succ fuel ih =>
    cases hn : s.node n with
    | leaf sym f =>
      rw [visit_of_leaf fuel path ct hn, CodeTable.entry_record] at h
      split at h
      · exact .inr (by simp_all)
      · exact .inl h
    | internal f l r =>
      rw [visit_of_internal fuel path ct hn] at h
      rcases ih h with hleft | hright
      · exact (ih hleft).imp id (List.prefix_append _ _).trans
      · exact .inr ((List.prefix_append _ _).trans hright)

/-- No entry of the table begins the path or continues it, so the path may be given out as a code. -/
def CodeTable.Apart (ct : CodeTable) (path : Bits) : Prop := ∀ x c, ct.entry x = some c → ¬c <+: path ∧ ¬path <+: c

theorem CodeTable.Apart.concat {ct : CodeTable} {path : Bits} (h : ct.Apart path) (b : Bool) : ct.Apart (path ++ [b]) := by
  intro x c hc
  obtain ⟨hl, hr⟩ := h x c hc
  have hp : path <+: path ++ [b] := List.prefix_append _ _
  refine ⟨fun hpre => ?_, fun hpre => hr (hp.trans hpre)⟩
  rcases List.prefix_concat_iff.mp hpre with rfl | hpre
  · exact hr hp
  · exact hl hpre

/-- Recording a path that is apart from the table keeps `PrefixFree`. -/
theorem prefixFree_record {ct : CodeTable} {path : Bits} (hpf : ct.PrefixFree) (hap : ct.Apart path) (sym : Sym) :
    (ct.record sym path).PrefixFree := by
  rw [CodeTable.prefixFree_iff] at *
  intro a b c d hab hc hd
  rw [CodeTable.entry_record] at hc hd
  split at hc <;> split at hd
  · simp_all
  · obtain rfl : path = c := by simpa using hc
    exact (hap b d hd).2
  · obtain rfl : path = d := by simpa using hd
    exact (hap a c hc).1
  · exact hpf a b c d hab hc hd

/-- What continues the left branch neither begins nor continues the right one. -/
theorem not_prefix_of_branch {path c : Bits} (h : path ++ [false] <+: c) : ¬c <+: path ++ [true] ∧ ¬path ++ [true] <+: c := by
  obtain ⟨rest, rfl⟩ := h
  constructor <;> simp [List.prefix_append_right_inj]

/-- VISIT keeps `PrefixFree`, whatever the arena holds (43_code_table R143). -/
theorem prefixFree_visit {s : State} {fuel : Nat} {n : NodeIdx} {path : Bits} {ct : CodeTable} (hpf : ct.PrefixFree)
    (hap : ct.Apart path) : (visit s fuel n path ct).PrefixFree := by
  induction fuel generalizing n path ct with
  | zero => exact hpf
  | succ fuel ih =>
    cases hn : s.node n with
    | leaf sym f =>
      rw [visit_of_leaf fuel path ct hn]
      exact prefixFree_record hpf hap sym
    | internal f l r =>
      rw [visit_of_internal fuel path ct hn]
      refine ih (ih hpf (hap.concat false)) fun x c hc => ?_
      rcases entry_visit hc with hold | hnew
      · exact hap.concat true x c hold
      · exact not_prefix_of_branch hnew

/-! ## BUILD_CODES' table -/

theorem prefixFree_empty : CodeTable.empty.PrefixFree := by
  rw [CodeTable.prefixFree_iff]
  simp

theorem apart_empty (path : Bits) : CodeTable.empty.Apart path := by
  simp [CodeTable.Apart]

/-- The three tables BUILD_CODES can build (43_code_table R140). -/
theorem codesOfTree_cases (s : State) :
    s.codesOfTree = CodeTable.empty ∨ (∃ sym, s.codesOfTree = CodeTable.empty.record sym singleLeafCode) ∨
      ∃ n f l r, s.root = some n ∧ s.node n = .internal f l r ∧ s.codesOfTree = visit s s.nodeCount n [] CodeTable.empty := by
  unfold State.codesOfTree
  cases hr : s.root with
  | none => exact .inl rfl
  | some n =>
    cases hn : s.node n with
    | leaf sym f => exact .inr (.inl ⟨sym, by simp [hn]⟩)
    | internal f l r => exact .inr (.inr ⟨n, f, l, r, rfl, hn, by simp [hn]⟩)

/-- A built table is `PrefixFree`, whatever the arena holds (43_code_table R143). -/
theorem prefixFree_codesOfTree (s : State) : s.codesOfTree.PrefixFree := by
  rcases codesOfTree_cases s with h | ⟨sym, h⟩ | ⟨n, f, l, r, -, -, h⟩ <;> rw [h]
  · exact prefixFree_empty
  · exact prefixFree_record prefixFree_empty (apart_empty _) sym
  · exact prefixFree_visit prefixFree_empty (apart_empty _)

/-- From an internal node VISIT records no empty code. -/
theorem ne_nil_of_entry_visit {s : State} {fuel : Nat} {n l r : NodeIdx} {f : Count} {x : Sym} {c : Bits}
    (hn : s.node n = .internal f l r) (h : (visit s fuel n [] CodeTable.empty).entry x = some c) : c ≠ [] := by
  cases fuel with
  | zero => simp [visit] at h
  | succ fuel =>
    rw [visit_of_internal fuel _ _ hn] at h
    rintro rfl
    rcases entry_visit h with hleft | hright
    · rcases entry_visit hleft with hold | hleft
      · simp at hold
      · simp at hleft
    · simp at hright

/-- No code of a built table is empty (10_state R37). -/
theorem ne_nil_of_entry_codesOfTree {s : State} {x : Sym} {c : Bits} (h : s.codesOfTree.entry x = some c) : c ≠ [] := by
  rcases codesOfTree_cases s with hct | ⟨sym, hct⟩ | ⟨n, f, l, r, -, hn, hct⟩ <;> rw [hct] at h
  · simp at h
  · rw [CodeTable.entry_record] at h
    rintro rfl
    simp [singleLeafCode] at h
  · exact ne_nil_of_entry_visit hn h

/-! ## The invariant -/

/-- Reset, emptied and freshly built tables meet the invariant with an empty candidate. -/
theorem tableInv_of_cand_nil {s : State} (hpf : s.ct.PrefixFree) (hne : ∀ c ∈ s.ct.codes, c ≠ []) (hc : s.cand = []) :
    s.TableInv := ⟨hpf, hne, fun c hcc hp => hne c hcc (by simpa [hc] using hp)⟩

theorem tableInv_of_ct_empty {s : State} (ht : s.ct = CodeTable.empty) (hc : s.cand = []) : s.TableInv :=
  tableInv_of_cand_nil (ht ▸ prefixFree_empty) (by simp [ht, CodeTable.mem_codes]) hc

theorem tableInv_congr {s t : State} (hct : t.ct = s.ct) (hcand : t.cand = s.cand) (h : s.TableInv) : t.TableInv := by
  obtain ⟨hpf, hne, hcu⟩ := h
  exact ⟨hct ▸ hpf, hct ▸ hne, hct ▸ hcand ▸ hcu⟩

/-- A candidate no code matches grows by a bit without running past a code (44_codec R153). -/
theorem not_prefix_of_unmatched {s : State} {b : Bool} (h : s.TableInv) (hm : matchCode s.ct (s.cand ++ [b]) = none) :
    ∀ c ∈ s.ct.codes, ¬c <+: s.cand ++ [b] := by
  intro c hc hp
  rcases List.prefix_concat_iff.mp hp with rfl | hp
  · obtain ⟨x, hx⟩ := CodeTable.mem_codes.mp hc
    exact matchCode_eq_none.mp hm x hx
  · exact h.candidateUnmatched c hc hp

theorem tableInv_effect {i : Instr} {s : State} (h : s.TableInv) : (effect i s).TableInv := by
  by_cases hb : i = .buildCodes
  · subst hb
    exact tableInv_of_cand_nil (prefixFree_codesOfTree s)
      (fun c hc => by obtain ⟨x, hx⟩ := CodeTable.mem_codes.mp hc; exact ne_nil_of_entry_codesOfTree hx) rfl
  by_cases hr : i = .softReset
  · subst hr
    exact tableInv_of_ct_empty rfl rfl
  have hct := effect_ct s hb hr
  by_cases hc : i = .decClear
  · subst hc
    exact tableInv_of_cand_nil h.prefixFree h.codesNonempty rfl
  by_cases hd : ∃ b, i = .decBit b
  · obtain ⟨b, rfl⟩ := hd
    rcases effect_decBit_cases b s with ⟨sym, he⟩ | ⟨hm, he⟩ <;> rw [he]
    · exact tableInv_of_cand_nil h.prefixFree h.codesNonempty rfl
    · exact ⟨h.prefixFree, h.codesNonempty, not_prefix_of_unmatched h hm⟩
  · exact tableInv_congr hct (effect_cand s hb (fun b hi => hd ⟨b, hi⟩) hc hr) h

theorem tableInv_containerInvariant : ContainerInvariant State.TableInv where
  congr hst := tableInv_congr hst.ct hst.cand
  reset := tableInv_of_ct_empty rfl rfl
  clearTree := tableInv_congr rfl rfl
  effect _ := tableInv_effect

/-- Settles O43: the codes VISIT gives out are apart from the path of every later leaf, and DEC_BIT empties a candidate that matches. -/
theorem stepKeepsTheTableInvariant : Obligations.StepKeepsTheTableInvariant := fun _ _ hs h =>
  tableInv_containerInvariant.step hs h

end Sys2Proof.Machine
end

section
/-! MAP and TOTAL through every step (10_state R32). -/

namespace Sys2Proof.Machine

theorem keys_countSymbol (sym : Sym) (m : List MapEntry) :
    (countSymbol sym m).map (·.sym) = if sym ∈ m.map (·.sym) then m.map (·.sym) else m.map (·.sym) ++ [sym] := by
  induction m with
  | nil => rfl
  | cons e rest ih =>
    by_cases h : e.sym = sym
    · simp [countSymbol, h]
    · have h' : ¬sym = e.sym := fun he => h he.symm
      by_cases hm : sym ∈ rest.map (·.sym) <;> simp_all [countSymbol]

theorem nodup_keys_countSymbol {sym : Sym} {m : List MapEntry} (h : (m.map (·.sym)).Nodup) :
    ((countSymbol sym m).map (·.sym)).Nodup := by
  rw [keys_countSymbol]
  split
  · exact h
  · rename_i hm
    rw [← List.concat_eq_append]
    exact h.concat hm

/-- The sum of the counts of a map. -/
def countsOf (m : List MapEntry) : Nat := (m.map (·.cnt.toNat)).sum

theorem countSum_eq_countsOf (s : State) : s.countSum = countsOf s.map := rfl

/-- One occurrence adds one to the sum of the counts, as long as no count overflows. -/
theorem countsOf_countSymbol {sym : Sym} {m : List MapEntry} (h : countsOf m < 2 ^ 32 - 1) :
    countsOf (countSymbol sym m) = countsOf m + 1 := by
  induction m with
  | nil => rfl
  | cons e rest ih =>
    simp only [countsOf, List.map_cons, List.sum_cons] at h ih ⊢
    by_cases he : e.sym = sym
    · simp [countSymbol, he]; omega
    · simp [countSymbol, he, ih (by omega)]; omega

theorem counts_positive_countSymbol {sym : Sym} {m : List MapEntry} (h : countsOf m < 2 ^ 32 - 1)
    (hp : ∀ e ∈ m, 1 ≤ e.cnt.toNat) : ∀ e ∈ countSymbol sym m, 1 ≤ e.cnt.toNat := by
  induction m with
  | nil => simp [countSymbol]
  | cons e rest ih =>
    simp only [countsOf, List.map_cons, List.sum_cons] at h ih
    obtain ⟨he, hrest⟩ := List.forall_mem_cons.mp hp
    by_cases hs : e.sym = sym
    · simp only [countSymbol, hs, if_true, List.forall_mem_cons]
      exact ⟨by simp; omega, hrest⟩
    · simp only [countSymbol, hs, if_false, List.forall_mem_cons]
      exact ⟨he, ih (by omega) hrest⟩

theorem mapInv_congr {s t : State} (hm : t.map = s.map) (ht : t.total = s.total) (h : s.MapInv) : t.MapInv := by
  obtain ⟨hk, hp, hs⟩ := h
  unfold State.keys at hk
  unfold State.countSum at hs
  exact ⟨by rw [State.keys, hm]; exact hk, hm ▸ hp, by rw [State.countSum, hm, ht]; exact hs⟩

theorem mapInv_of_empty {s : State} (hm : s.map = []) (ht : s.total = 0#32) : s.MapInv :=
  ⟨by simp [State.keys, hm], by simp [hm], by simp [State.countSum, hm, ht]⟩

/-- MAP_COUNT below the greatest total counts one occurrence exactly (40_frequency_map R101). -/
theorem mapInv_mapCount {s : State} {sym : Sym} (h : s.MapInv) (hlt : s.total ≠ 0xFFFFFFFF#32) :
    (effect (.mapCount sym) s).MapInv := by
  obtain ⟨hk, hp, hs⟩ := h
  have hne : s.total.toNat ≠ 2 ^ 32 - 1 := fun he => hlt (BitVec.eq_of_toNat_eq (by simpa using he))
  have htot := s.total.isLt
  have hsum : countsOf s.map < 2 ^ 32 - 1 := by
    rw [countSum_eq_countsOf] at hs
    omega
  refine ⟨nodup_keys_countSymbol hk, counts_positive_countSymbol hsum hp, ?_⟩
  calc countsOf (countSymbol sym s.map) = countsOf s.map + 1 := countsOf_countSymbol hsum
    _ = s.total.toNat + 1 := congrArg (· + 1) hs
    _ = (s.total + 1#32).toNat := by simp; omega

theorem mapInv_effect {i : Instr} {s : State} (hc : check i s = none) (h : s.MapInv) : (effect i s).MapInv := by
  by_cases hn : ∃ x, i = .mapCount x
  · obtain ⟨x, rfl⟩ := hn
    exact mapInv_mapCount h (by simpa [check] using hc)
  by_cases hcl : i = .mapClear
  · subst hcl
    exact mapInv_of_empty rfl rfl
  by_cases hr : i = .softReset
  · subst hr
    exact mapInv_of_empty rfl rfl
  · obtain ⟨hm, ht⟩ := effect_map s hcl (fun x hx => hn ⟨x, hx⟩) hr
    exact mapInv_congr hm ht h

theorem mapInv_containerInvariant : ContainerInvariant State.MapInv where
  congr hst := mapInv_congr hst.map hst.total
  reset := mapInv_of_empty rfl rfl
  clearTree := mapInv_congr rfl rfl
  effect := mapInv_effect

/-- Settles O42: only MAP_COUNT adds to MAP, and it refuses the count that would overflow. -/
theorem stepKeepsTheMapInvariant : Obligations.StepKeepsTheMapInvariant := fun _ _ hs h =>
  mapInv_containerInvariant.step hs h

end Sys2Proof.Machine
end

section
/-! The arena, LIST and ROOT through every command (10_state R33 to R36; 42_tree_builder R133). Loading a leaf and merging are one
operation: a record is allocated, its children leave LIST, and its index is inserted. -/

namespace Sys2Proof.Machine

/-! ## Counting nodes -/

@[simp] theorem Node.leafSym_leaf (sym : Sym) (f : Count) : (Node.leaf sym f).leafSym = some sym := rfl
@[simp] theorem Node.leafSym_internal (f : Count) (l r : NodeIdx) : (Node.internal f l r).leafSym = none := rfl
@[simp] theorem Node.kids_leaf (sym : Sym) (f : Count) : (Node.leaf sym f).kids = [] := rfl
@[simp] theorem Node.kids_internal (f : Count) (l r : NodeIdx) : (Node.internal f l r).kids = [l, r] := rfl

theorem nodeCount_eq_leaves_add_internals (s : State) : s.nodeCount = s.leafSyms.length + s.internalCount := by
  unfold State.nodeCount State.leafSyms State.internalCount
  induction s.nodes with
  | nil => rfl
  | cons r rest ih =>
    cases r with
    | leaf sym f => simp [ih]; omega
    | internal f left right => simp [List.filterMap_cons, List.countP_cons, ih]; omega

theorem length_children (s : State) : s.children.length = 2 * s.internalCount := by
  unfold State.children State.internalCount
  induction s.nodes with
  | nil => rfl
  | cons r rest ih =>
    cases r with
    | leaf sym f => simp [ih]
    | internal f left right => simp [List.countP_cons, ih]; omega

theorem length_le_of_nodup_syms {l : List Sym} (h : l.Nodup) : l.length ≤ 256 := by
  simpa using (h.map (f := BitVec.toFin) fun _ _ => BitVec.eq_of_toFin_eq).length_le_card

/-! ## One allocation -/

section
variable (s : State) (r : Node)

theorem children_alloc : (s.alloc r).children = s.children ++ r.kids := by
  simp [State.children]

theorem leafSyms_alloc : (s.alloc r).leafSyms = s.leafSyms ++ r.leafSym.toList := by
  cases r <;> simp [State.leafSyms]

theorem internalCount_alloc : (s.alloc r).internalCount = s.internalCount + if r.leafSym.isNone then 1 else 0 := by
  simp [State.internalCount, List.countP_cons]

theorem getElem?_alloc_eq_some {n : Nat} {x : Node} (h : (s.alloc r).nodes[n]? = some x) :
    s.nodes[n]? = some x ∨ (n = s.nodeCount ∧ x = r) := by
  rw [State.alloc_nodes, List.getElem?_append] at h
  split at h
  · exact .inl h
  · rename_i hn
    obtain ⟨hi, hx⟩ := List.getElem?_eq_some_iff.mp h
    have hi' : n = s.nodes.length := by
      have : n - s.nodes.length < 1 := hi
      omega
    exact .inr ⟨hi', by simpa using hx.symm⟩

end

/-! ## The records -/

/-- Where a record is well placed, its children are earlier nodes (10_state R34). -/
theorem kids_lt_of_wellPlaced {key : NodeIdx → Count} {n : NodeIdx} {r : Node} (h : r.wellPlaced key n = true) :
    ∀ k ∈ r.kids, k < n := by
  cases r with
  | leaf sym f => simp
  | internal f left right =>
    obtain ⟨hl, hr, -, -⟩ := of_decide_eq_true h
    simpa using ⟨hl, hr⟩

/-- Whether a record is well placed depends on the keys of earlier nodes only. -/
theorem wellPlaced_of_keys {key key' : NodeIdx → Count} {n : NodeIdx} {r : Node} (hk : ∀ m < n, key' m = key m)
    (h : r.wellPlaced key n = true) : r.wellPlaced key' n = true := by
  cases r with
  | leaf sym f => exact h
  | internal f left right =>
    obtain ⟨hl, hr, hne, hf⟩ := of_decide_eq_true h
    exact decide_eq_true ⟨hl, hr, hne, by rw [hk _ hl, hk _ hr, hf]⟩

theorem State.TreeInv.wellPlaced {s : State} (h : s.TreeInv) {n : NodeIdx} {r : Node} (hn : s.nodes[n]? = some r) :
    r.wellPlaced s.key n = true :=
  h.recordsWellPlaced (r, n) (List.mk_mem_zipIdx_iff_getElem?.mpr hn)

theorem State.TreeInv.children_lt {s : State} (h : s.TreeInv) : ∀ k ∈ s.children, k < s.nodeCount := fun k hk =>
  h.referencesAllocated k (by simp [references, hk])

theorem State.TreeInv.list_lt {s : State} (h : s.TreeInv) : ∀ k ∈ s.list, k < s.nodeCount := fun k hk =>
  h.referencesAllocated k (by simp [references, hk])

/-! ## The weight of the forest -/

/-- The top nodes after an allocation: the record's children are tops no longer, the new node is one. -/
theorem tops_alloc {s : State} {r : Node} (hnd : r.kids.Nodup) (hk : ∀ k ∈ r.kids, k ∈ s.tops)
    (hlt : ∀ k ∈ s.children, k < s.nodeCount) :
    ∃ common, s.tops.Perm (r.kids ++ common) ∧ (s.alloc r).tops = common ++ [s.nodeCount] := by
  refine ⟨(List.range s.nodeCount).filter (· ∉ s.children ++ r.kids), ?_, ?_⟩
  · have hnr := List.nodup_range (n := s.nodeCount)
    refine (List.perm_ext_iff_of_nodup (hnr.filter _) (List.nodup_append.mpr ⟨hnd, hnr.filter _, ?_⟩)).mpr fun k => ?_
    · rintro a ha b hb rfl
      simp [ha] at hb
    · have := hk k
      simp only [State.tops, List.mem_filter, List.mem_append, decide_eq_true_eq] at this ⊢
      tauto
  · have h1 : s.nodeCount ∉ s.children ++ r.kids := by
      intro hm
      rcases List.mem_append.mp hm with hm | hm
      · exact absurd (hlt _ hm) (lt_irrefl _)
      · have := hk _ hm
        simp [State.tops] at this
    rw [State.tops, children_alloc, State.nodeCount_alloc, List.range_succ, List.filter_append]
    simp [-List.mem_append, h1]

/-- The sum of the keys of some nodes. -/
def State.weightOf (s : State) (l : List NodeIdx) : Nat := (l.map fun n => (s.key n).toNat).sum

@[simp] theorem State.weightOf_append (s : State) (l l' : List NodeIdx) :
    s.weightOf (l ++ l') = s.weightOf l + s.weightOf l' := by
  simp [weightOf]

theorem State.weightOf_le_of_subperm (s : State) {l l' : List NodeIdx} (h : l.Subperm l') : s.weightOf l ≤ s.weightOf l' := by
  obtain ⟨m, hp, hsub⟩ := h
  calc s.weightOf l = s.weightOf m := ((hp.map _).sum_eq).symm
    _ ≤ s.weightOf l' := (hsub.map _).sum_le_sum (by simp)

theorem State.topWeight_eq_weightOf (s : State) : s.topWeight = s.weightOf s.tops := rfl

theorem State.weightOf_alloc {s : State} {l : List NodeIdx} (r : Node) (h : ∀ k ∈ l, k < s.nodeCount) :
    (s.alloc r).weightOf l = s.weightOf l := by
  unfold weightOf
  congr 1
  exact List.map_congr_left fun k hk => by rw [s.key_alloc_of_lt r (h k hk)]

/-- An allocation adds the record's freq to the weight of the tops and takes its children's keys from it (42_tree_builder R133). -/
theorem topWeight_alloc {s : State} {r : Node} (hnd : r.kids.Nodup) (hk : ∀ k ∈ r.kids, k ∈ s.tops)
    (hlt : ∀ k ∈ s.children, k < s.nodeCount) :
    (s.alloc r).topWeight + s.weightOf r.kids = s.topWeight + r.freq.toNat := by
  obtain ⟨common, hs, ht⟩ := tops_alloc hnd hk hlt
  have hcommon : ∀ k ∈ common, k < s.nodeCount := fun k hkc => by
    have : k ∈ s.tops := hs.mem_iff.mpr (by simp [hkc])
    simp [State.tops] at this
    exact this.1
  have hsw : s.topWeight = s.weightOf r.kids + s.weightOf common := by
    rw [← State.weightOf_append]
    exact (hs.map _).sum_eq
  have htw : (s.alloc r).topWeight = s.weightOf common + r.freq.toNat := by
    rw [← State.weightOf_alloc r hcommon, State.topWeight_eq_weightOf, ht, State.weightOf_append]
    simp [State.weightOf]
  omega

/-! ## Inserting the newest node -/

/-- Inserting an index greater than every entry's keeps LIST ordered (10_state R33; 41_priority_list R121). -/
theorem pairwise_before_insertByKey {s : State} {n : NodeIdx} {l : List NodeIdx} (hl : l.Pairwise s.before)
    (hn : ∀ m ∈ l, m < n) : (insertByKey s.key n l).Pairwise s.before := by
  induction l with
  | nil => simp [insertByKey]
  | cons m rest ih =>
    obtain ⟨hm, hrest⟩ := List.pairwise_cons.mp hl
    rw [insertByKey]
    split
    · rename_i hlt
      refine List.pairwise_cons.mpr ⟨fun x hx => .inl ?_, hl⟩
      rcases List.mem_cons.mp hx with rfl | hx
      · exact hlt
      · rcases hm x hx with h | ⟨h, -⟩
        · exact BitVec.lt_trans hlt h
        · exact h ▸ hlt
    · rename_i hge
      refine List.pairwise_cons.mpr ⟨fun x hx => ?_, ih hrest fun x hx => hn x (by simp [hx])⟩
      rcases mem_insertByKey.mp hx with rfl | hx
      · rcases (by bv_omega : s.key m < s.key x ∨ s.key m = s.key x) with h | h
        · exact .inl h
        · exact .inr ⟨h, hn m (by simp)⟩
      · exact hm x hx

/-- A record is allocated, LIST cut to `rest`, and the new index inserted: what loading a leaf and merging both do. -/
def State.allocInsert (s : State) (r : Node) (rest : List NodeIdx) : State :=
  { s.alloc r with list := insertByKey (s.alloc r).key s.nodeCount rest }

theorem loadLeaf_eq_allocInsert (s : State) (e : MapEntry) : s.loadLeaf e = s.allocInsert (.leaf e.sym e.cnt) s.list := rfl

theorem mergeStep_eq_allocInsert {s : State} {l r : NodeIdx} {rest : List NodeIdx} (h : s.list = l :: r :: rest) :
    s.mergeStep = (s.allocInsert (.internal (s.key l + s.key r) l r) rest).returnNode s.nodeCount :=
  s.mergeStep_of_list h

section
variable {s : State} {r : Node} {rest : List NodeIdx}

theorem recordsWellPlaced_alloc (h : s.TreeInv) (hr : r.wellPlaced s.key s.nodeCount = true) :
    ∀ p ∈ (s.alloc r).nodes.zipIdx, p.1.wellPlaced (s.alloc r).key p.2 = true := by
  intro p hp
  have hold : ∀ m < s.nodeCount, (s.alloc r).key m = s.key m := fun m hm => s.key_alloc_of_lt r hm
  rcases getElem?_alloc_eq_some s r (List.mem_zipIdx_iff_getElem?.mp hp) with hx | ⟨hn, hx⟩
  · have hlt : p.2 < s.nodeCount := (List.getElem?_eq_some_iff.mp hx).1
    exact wellPlaced_of_keys (fun m hm => hold m (hm.trans hlt)) (h.wellPlaced hx)
  · rw [hn, hx]
    exact wellPlaced_of_keys hold hr

/-- The references after: the new node in LIST, and the children as child fields in place of LIST entries (10_state R35). -/
theorem references_allocInsert_perm (hperm : s.list.Perm (rest ++ r.kids)) :
    (s.allocInsert r rest).references.Perm (s.nodeCount :: s.references) := by
  change (insertByKey _ _ rest ++ (s.alloc r).children ++ s.root.toList).Perm _
  rw [children_alloc]
  have hinserted : (insertByKey (s.alloc r).key s.nodeCount rest ++ (s.children ++ r.kids) ++ s.root.toList).Perm
      (s.nodeCount :: rest ++ (r.kids ++ s.children) ++ s.root.toList) :=
    ((insertByKey_perm _ _ _).append List.perm_append_comm).append_right _
  have hmoved : (rest ++ (r.kids ++ s.children) ++ s.root.toList).Perm s.references := by
    rw [← List.append_assoc]
    exact (hperm.symm.append_right _).append_right _
  exact hinserted.trans (hmoved.cons _)

theorem listOrdered_allocInsert (h : s.TreeInv) (hrest : rest.Sublist s.list) :
    (s.allocInsert r rest).list.Pairwise (s.allocInsert r rest).before := by
  have hlt : ∀ m ∈ rest, m < s.nodeCount := fun m hm => h.list_lt m (hrest.subset hm)
  refine pairwise_before_insertByKey (s := s.alloc r) ?_ hlt
  refine (h.listOrdered.sublist hrest).imp_of_mem fun {a b} ha hb hab => ?_
  simpa only [State.before, s.key_alloc_of_lt r (hlt a ha), s.key_alloc_of_lt r (hlt b hb)] using hab

/-- A leaf adds a leaf and an entry, an internal node takes two entries for one (00_scope R7). -/
theorem mergesFit_allocInsert (h : s.TreeInv) (hperm : s.list.Perm (rest ++ r.kids)) :
    (s.allocInsert r rest).list.length + (s.alloc r).internalCount ≤ (s.alloc r).leafSyms.length := by
  have hlen := hperm.length_eq
  have hfit := h.mergesFit
  change (insertByKey _ _ rest).length + _ ≤ _
  rw [internalCount_alloc, leafSyms_alloc, length_insertByKey]
  cases r <;> simp at hlen ⊢ <;> omega

/-- At most 256 leaves, and an entry of LIST for which no merge has been made, leave room for the new node (20_memory R51). -/
theorem arenaFits_allocInsert (hleaf : (s.alloc r).leafSyms.Nodup)
    (hfit : (s.allocInsert r rest).list.length + (s.alloc r).internalCount ≤ (s.alloc r).leafSyms.length) :
    (s.alloc r).nodeCount ≤ Config.nodeMax := by
  have hcount := nodeCount_eq_leaves_add_internals (s.alloc r)
  have hsyms := length_le_of_nodup_syms hleaf
  change (insertByKey _ _ rest).length + _ ≤ _ at hfit
  rw [length_insertByKey] at hfit
  change _ ≤ 511
  omega

/-- An allocated and inserted record keeps the invariant when its children leave LIST for it and the weight still fits. -/
theorem treeInv_allocInsert (h : s.TreeInv) (hrest : rest.Sublist s.list) (hperm : s.list.Perm (rest ++ r.kids))
    (hr : r.wellPlaced s.key s.nodeCount = true) (hleaf : (s.leafSyms ++ r.leafSym.toList).Nodup)
    (hw : (s.alloc r).topWeight < 2 ^ 32) : (s.allocInsert r rest).TreeInv := by
  have href := references_allocInsert_perm hperm
  have hleaf' : (s.alloc r).leafSyms.Nodup := leafSyms_alloc s r ▸ hleaf
  have hfit := mergesFit_allocInsert h hperm
  refine ⟨recordsWellPlaced_alloc h hr, ?_, fun n hn => ?_, listOrdered_allocInsert h hrest, hleaf', hw, hfit,
    arenaFits_allocInsert hleaf' hfit⟩
  · rw [href.nodup_iff]
    exact List.nodup_cons.mpr ⟨fun hm => lt_irrefl _ (h.referencesAllocated _ hm), h.referencedOnce⟩
  · change n < (s.alloc r).nodeCount
    rw [State.nodeCount_alloc]
    rcases List.mem_cons.mp (href.mem_iff.mp hn) with rfl | hn
    · exact Nat.lt_succ_self _
    · exact Nat.lt_succ_of_lt (h.referencesAllocated n hn)

end

/-! ## Fewer references -/

/-- What a smaller LIST and no new reference keep of the invariant (41_priority_list R113; 42_tree_builder R131). -/
theorem treeInv_of_subperm {s t : State} (h : s.TreeInv) (hn : t.nodes = s.nodes) (hl : t.list.Sublist s.list)
    (href : t.references.Subperm s.references) : t.TreeInv := by
  have hkey : t.key = s.key := State.key_congr hn
  have hcount : t.nodeCount = s.nodeCount := congrArg List.length hn
  have hsyms : t.leafSyms = s.leafSyms := congrArg (List.filterMap Node.leafSym) hn
  have hint : t.internalCount = s.internalCount := congrArg (List.countP fun r : Node => r.leafSym.isNone) hn
  have htops : t.tops = s.tops := by rw [State.tops, State.tops, hcount, State.children, State.children, hn]
  refine ⟨by rw [hn, hkey]; exact h.recordsWellPlaced, ?_, fun n hm => ?_, ?_, hsyms ▸ h.leavesDistinct, ?_, ?_, ?_⟩
  · obtain ⟨l, hp, hs⟩ := href
    exact hp.nodup_iff.mp (h.referencedOnce.sublist hs)
  · rw [hcount]
    exact h.referencesAllocated n (href.subset hm)
  · have hb : t.before = s.before := by unfold State.before; rw [hkey]
    rw [hb]
    exact h.listOrdered.sublist hl
  · rw [State.topWeight, htops, hkey]
    exact h.weightFits
  · rw [hint, hsyms]
    exact (Nat.add_le_add_right hl.length_le _).trans h.mergesFit
  · rw [hcount]
    exact h.arenaFits

theorem treeInv_of_sublist {s t : State} (h : s.TreeInv) (hn : t.nodes = s.nodes) (hr : t.root = s.root)
    (hl : t.list.Sublist s.list) : t.TreeInv := by
  refine treeInv_of_subperm h hn hl (List.Sublist.subperm ?_)
  rw [State.references, State.references, hr, State.children, State.children, hn]
  exact (hl.append_right _).append_right _

theorem treeInv_of_empty {s : State} (hl : s.list = []) (hn : s.nodes = []) (hr : s.root = none) : s.TreeInv := by
  constructor <;> simp [State.references, State.children, State.leafSyms, State.topWeight, State.tops, State.nodeCount,
    State.internalCount, hl, hn, hr]

/-! ## Loading, merging, extracting -/

/-- PQ_LOAD_LEAVES' loop: each entry's leaf has a new symbol and its count is part of a total that fits (41_priority_list R117). -/
theorem treeInv_foldl_loadLeaf {es : List MapEntry} {s : State} (h : s.TreeInv) (hd : (s.leafSyms ++ es.map (·.sym)).Nodup)
    (hp : ∀ e ∈ es, 1 ≤ e.cnt.toNat) (hw : s.topWeight + countsOf es < 2 ^ 32) : (es.foldl State.loadLeaf s).TreeInv := by
  induction es generalizing s with
  | nil => exact h
  | cons e es ih =>
    obtain ⟨he, hes⟩ := List.forall_mem_cons.mp hp
    have hweight : (s.loadLeaf e).topWeight = s.topWeight + e.cnt.toNat :=
      topWeight_alloc (r := .leaf e.sym e.cnt) List.nodup_nil (by simp) h.children_lt
    have hsyms : (s.loadLeaf e).leafSyms = s.leafSyms ++ [e.sym] := leafSyms_alloc s (.leaf e.sym e.cnt)
    have hd' : (s.leafSyms ++ [e.sym] ++ es.map (·.sym)).Nodup := by simpa using hd
    have hw' : (s.loadLeaf e).topWeight + countsOf es < 2 ^ 32 := by
      rw [hweight]
      simpa [countsOf, Nat.add_assoc] using hw
    refine ih ?_ (hsyms ▸ hd') hes hw'
    rw [loadLeaf_eq_allocInsert]
    refine treeInv_allocInsert h (List.Sublist.refl _) (by simp) (decide_eq_true he) (List.nodup_append.mp hd').1 ?_
    exact Nat.lt_of_le_of_lt (Nat.le_add_right _ _) hw'

theorem treeInv_loadLeaves {s : State} (h : s.MapInv) : s.loadLeaves.TreeInv := by
  have hsum : countsOf s.map = s.total.toNat := h.sumIsTotal
  refine treeInv_foldl_loadLeaf (treeInv_of_empty rfl rfl rfl) h.keysDistinct h.countsPositive ?_
  have : s.clearTree.topWeight = 0 := rfl
  have := s.total.isLt
  omega

section
variable {s : State} {l r : NodeIdx} {rest : List NodeIdx}

theorem heads_ne (h : s.TreeInv) (hs : s.list = l :: r :: rest) : l ≠ r := by
  have hnd := h.referencedOnce
  simp [State.references, hs] at hnd
  tauto

/-- An entry of LIST is no node's child (10_state R35). -/
theorem mem_tops_of_mem_list (h : s.TreeInv) {k : NodeIdx} (hk : k ∈ s.list) : k ∈ s.tops := by
  have hnd := (List.nodup_append.mp h.referencedOnce).1
  have hnc : k ∉ s.children := fun hc => (List.nodup_append.mp hnd).2.2 k hk k hc rfl
  simpa [State.tops, hnc] using h.list_lt k hk

/-- The freqs of the two first entries are part of the weight, so their sum cannot overflow (42_tree_builder R133). -/
theorem toNat_key_add_key (h : s.TreeInv) (hs : s.list = l :: r :: rest) :
    (s.key l + s.key r).toNat = (s.key l).toNat + (s.key r).toNat := by
  have htop : ∀ k ∈ [l, r], k ∈ s.tops := fun k hk => mem_tops_of_mem_list h (by simp [hs] at hk ⊢; tauto)
  have hfit : s.weightOf [l, r] ≤ s.topWeight :=
    s.weightOf_le_of_subperm (List.Nodup.subperm (by simpa using heads_ne h hs) htop)
  have hkeys : s.weightOf [l, r] = (s.key l).toNat + (s.key r).toNat := by simp [State.weightOf]
  rw [BitVec.toNat_add, Nat.mod_eq_of_lt (hkeys ▸ hfit.trans_lt h.weightFits)]

/-- A merge takes the two first entries' freqs out of the weight and puts their sum in (42_tree_builder R130, R133). -/
theorem treeInv_merge (h : s.TreeInv) (hs : s.list = l :: r :: rest) :
    (s.allocInsert (.internal (s.key l + s.key r) l r) rest).TreeInv := by
  have htop : ∀ k ∈ [l, r], k ∈ s.tops := fun k hk => mem_tops_of_mem_list h (by simp [hs] at hk ⊢; tauto)
  have hne := heads_ne h hs
  have hsum := toNat_key_add_key h hs
  have hweight := topWeight_alloc (r := .internal (s.key l + s.key r) l r) (by simpa using hne) htop h.children_lt
  have hkids : s.weightOf [l, r] = (s.key l).toNat + (s.key r).toNat := by simp [State.weightOf]
  rw [Node.kids_internal, hkids, Node.freq, hsum] at hweight
  refine treeInv_allocInsert h ?_ ?_ ?_ (by simpa using h.leavesDistinct) ?_
  · rw [hs]
    exact ((List.Sublist.refl rest).cons r).cons l
  · rw [hs]
    exact List.perm_append_comm (l₁ := [l, r])
  · exact decide_eq_true ⟨h.list_lt l (by simp [hs]), h.list_lt r (by simp [hs]), hne, hsum⟩
  · have := h.weightFits
    omega

end

theorem treeInv_mergeStep {s : State} (h : s.TreeInv) : s.mergeStep.TreeInv := by
  match hs : s.list with
  | [] => rwa [show s.mergeStep = s by simp [State.mergeStep, hs]]
  | [_] => rwa [show s.mergeStep = s by simp [State.mergeStep, hs]]
  | l :: r :: rest =>
    rw [mergeStep_eq_allocInsert hs]
    exact treeInv_of_sublist (treeInv_merge h hs) rfl rfl (List.Sublist.refl _)

theorem treeInv_mergeWhile {fuel : Nat} {s : State} (h : s.TreeInv) : (mergeWhile fuel s).TreeInv := by
  induction fuel generalizing s with
  | zero => exact h
  | succ fuel ih =>
    rw [mergeWhile]
    split
    · exact ih (treeInv_mergeStep h)
    · exact h

/-- The first entry becomes ROOT: a reference moves from LIST, the old ROOT's is dropped (42_tree_builder R131). -/
theorem treeInv_extractRoot {s : State} (h : s.TreeInv) : s.extractRoot.TreeInv := by
  cases hs : s.list with
  | nil => rwa [State.extractRoot_of_nil hs]
  | cons n rest =>
    rw [State.extractRoot_of_cons hs]
    refine treeInv_of_subperm h rfl (by rw [hs]; exact List.sublist_cons_self n rest) ?_
    change (rest ++ s.children ++ [n]).Subperm (s.list ++ s.children ++ s.root.toList)
    have hmoved : (rest ++ s.children ++ [n]).Perm (n :: rest ++ s.children) := List.perm_append_comm
    rw [hs]
    exact hmoved.subperm.trans (List.sublist_append_left _ _).subperm

theorem treeInv_effect {i : Instr} {s : State} (hm : s.MapInv) (h : s.TreeInv) : (effect i s).TreeInv := by
  cases ht : writesTree i with
  | false =>
    by_cases hr : i = .softReset
    · subst hr
      exact treeInv_of_empty rfl rfl rfl
    · obtain ⟨hl, hn, hroot⟩ := effect_tree s ht hr
      exact treeInv_of_sublist h hn hroot (hl ▸ List.Sublist.refl _)
  | true =>
    cases i <;> simp [writesTree] at ht
    case pqClear => exact treeInv_of_empty rfl rfl rfl
    case pqLoadLeaves => exact treeInv_loadLeaves hm
    case pqRemoveFirst =>
      rcases effect_pqRemoveFirst_cases s with he | ⟨n, he⟩ <;> rw [he]
      · exact h
      · exact treeInv_of_sublist h rfl rfl (List.eraseIdx_sublist _ _)
    case pqRemoveAt idx =>
      rcases effect_pqRemoveAt_cases idx s with he | ⟨n, he⟩ <;> rw [he]
      · exact h
      · exact treeInv_of_sublist h rfl rfl (List.eraseIdx_sublist _ _)
    case pqMergeStep => exact treeInv_mergeStep h
    case pqExtractRoot => exact treeInv_extractRoot h
    case buildTree => exact treeInv_extractRoot (treeInv_mergeWhile (treeInv_loadLeaves hm))

end Sys2Proof.Machine
end

section
/-! The whole invariant through every step (10_state R32 to R37; 00_scope R7; 70_reset R200). A code is no longer than the number of
internal nodes below ROOT, and single ownership leaves at most 255 of them. -/

namespace Sys2Proof.Machine

/-! ## The length of a built code -/

/-- The number of internal nodes at indices below `n`. -/
def State.internalsBelow (s : State) (n : NodeIdx) : Nat := (s.nodes.take n).countP (·.leafSym.isNone)

theorem internalsBelow_mono (s : State) {m n : NodeIdx} (h : m ≤ n) : s.internalsBelow m ≤ s.internalsBelow n :=
  (List.take_sublist_take_left h).countP_le

theorem internalsBelow_le (s : State) (n : NodeIdx) : s.internalsBelow n ≤ s.internalCount :=
  (List.take_sublist n s.nodes).countP_le

theorem internalsBelow_succ {s : State} {n l r : NodeIdx} {f : Count} (h : s.nodes[n]? = some (.internal f l r)) :
    s.internalsBelow (n + 1) = s.internalsBelow n + 1 := by
  simp [State.internalsBelow, List.take_add_one, h]

/-- An internal node counts one more than any of its children. -/
theorem internalsBelow_child {s : State} {n k l r : NodeIdx} {f : Count} (h : s.nodes[n]? = some (.internal f l r)) (hk : k < n) :
    s.internalsBelow (k + 1) + 1 ≤ s.internalsBelow (n + 1) :=
  internalsBelow_succ h ▸ Nat.succ_le_succ (internalsBelow_mono s hk)

/-- Every step down a path leaves one internal node behind, for good, since children are earlier nodes (10_state R34). -/
theorem length_of_entry_visit {s : State} (h : s.TreeInv) {fuel : Nat} {n : NodeIdx} {path : Bits} {ct : CodeTable} {x : Sym}
    {c : Bits} (hn : n < s.nodeCount) (hc : (visit s fuel n path ct).entry x = some c) :
    ct.entry x = some c ∨ c.length ≤ path.length + s.internalsBelow (n + 1) := by
  induction fuel generalizing n path ct with
  | zero => exact .inl hc
  | succ fuel ih =>
    cases hnode : s.node n with
    | leaf sym f =>
      rw [visit_of_leaf fuel path ct hnode, CodeTable.entry_record] at hc
      split at hc
      · obtain rfl : path = c := by simpa using hc
        exact .inr (Nat.le_add_right _ _)
      · exact .inl hc
    | internal f l r =>
      have hget : s.nodes[n]? = some (.internal f l r) := hnode ▸ s.getElem?_of_lt hn
      have hkids := kids_lt_of_wellPlaced (h.wellPlaced hget)
      have hl : l < n := hkids l (by simp)
      have hr : r < n := hkids r (by simp)
      have hchild : ∀ (b : Bool) (k : NodeIdx), k < n → c.length ≤ (path ++ [b]).length + s.internalsBelow (k + 1) →
          c.length ≤ path.length + s.internalsBelow (n + 1) := fun b k hk hlen => by
        have := internalsBelow_child hget hk
        rw [List.length_append, List.length_singleton] at hlen
        omega
      rw [visit_of_internal fuel path ct hnode] at hc
      rcases ih (hr.trans hn) hc with hleft | hlen
      · exact (ih (hl.trans hn) hleft).imp id (hchild false l hl)
      · exact .inr (hchild true r hr hlen)

/-- The children are different nodes and ROOT is none of them, so a forest with a ROOT has more leaves than internal nodes. -/
theorem internalCount_le_of_root {s : State} (h : s.TreeInv) {n : NodeIdx} (hr : s.root = some n) : s.internalCount ≤ 255 := by
  have hnd : (s.children ++ [n]).Nodup := by
    have := h.referencedOnce
    rw [State.references, hr, List.append_assoc] at this
    exact (List.nodup_append.mp this).2.1
  have hsub : s.children ++ [n] ⊆ List.range s.nodeCount := fun k hk => by
    refine List.mem_range.mpr (h.referencesAllocated k ?_)
    simp [State.references, hr] at hk ⊢
    tauto
  have hlen := (hnd.subperm hsub).length_le
  rw [List.length_append, length_children, List.length_singleton, List.length_range, nodeCount_eq_leaves_add_internals] at hlen
  have := length_le_of_nodup_syms h.leavesDistinct
  omega

/-- The valid codes are at most CODE_MAX bits long (00_scope R7). -/
def CodeTable.Fit (ct : CodeTable) : Prop := ∀ c ∈ ct.codes, c.length ≤ Config.codeMax

theorem fit_codesOfTree {s : State} (h : s.TreeInv) : s.codesOfTree.Fit := by
  intro c hc
  obtain ⟨x, hx⟩ := CodeTable.mem_codes.mp hc
  change c.length ≤ 255
  rcases codesOfTree_cases s with hct | ⟨sym, hct⟩ | ⟨n, f, l, r, hr, -, hct⟩ <;> rw [hct] at hx
  · simp at hx
  · rw [CodeTable.entry_record] at hx
    split at hx
    · obtain rfl : singleLeafCode = c := by simpa using hx
      decide
    · simp at hx
  · have hn : n < s.nodeCount := h.referencesAllocated n (by simp [State.references, hr])
    rcases length_of_entry_visit h hn hx with hx | hlen
    · simp at hx
    · have := internalsBelow_le s (n + 1)
      have := internalCount_le_of_root h hr
      simp at hlen
      omega

theorem fit_empty : CodeTable.empty.Fit := by
  simp [CodeTable.Fit, CodeTable.mem_codes]

/-! ## The invariants of the containers together -/

/-- The invariants that lean on one another: the leaves are loaded from MAP, the codes built from the tree. -/
structure State.BuildInv (s : State) : Prop where
  mapInv : s.MapInv
  treeInv : s.TreeInv
  codesFit : s.ct.Fit

theorem buildInv_containerInvariant : ContainerInvariant State.BuildInv where
  congr hst h :=
    ⟨mapInv_congr hst.map hst.total h.mapInv, treeInv_of_sublist h.treeInv hst.nodes hst.root (hst.list ▸ List.Sublist.refl _),
      hst.ct ▸ h.codesFit⟩
  reset := ⟨mapInv_of_empty rfl rfl, treeInv_of_empty rfl rfl rfl, fit_empty⟩
  clearTree {s} h := ⟨mapInv_congr (s := s) rfl rfl h.mapInv, treeInv_of_empty rfl rfl rfl, h.codesFit⟩
  effect {i s} hc h := by
    refine ⟨mapInv_effect hc h.mapInv, treeInv_effect h.mapInv h.treeInv, ?_⟩
    by_cases hb : i = .buildCodes
    · subst hb
      exact fit_codesOfTree h.treeInv
    by_cases hr : i = .softReset
    · subst hr
      exact fit_empty
    · exact effect_ct s hb hr ▸ h.codesFit

/-! ## The reset input -/

/-- The model's own fields do not matter to the reset input's invariant. -/
theorem resetInv_ownFields {s : State} (h : s.ResetInv) (host : List HostOp) (sched : List Turn) (replies : List Reply) :
    State.ResetInv { s with host := host, sched := sched, replies := replies } := fun hr =>
  congrArg (fun u : State => { u with host := host, sched := sched, replies := replies }) (h hr)

/-- While reset is asserted the host's access is refused (70_reset R200). -/
theorem hostTurn_of_resetIn {s : State} (h : s.resetIn = true) :
    ∃ host replies, s.hostTurn = { s with host := host, replies := replies } := by
  cases hh : s.host with
  | nil => exact ⟨s.host, s.replies, hostTurn_nil hh⟩
  | cons op rest =>
    rw [hostTurn_eq hh, busAccess_refused (by simp [h])]
    exact ⟨_, _, rfl⟩

theorem resetIn_hostTurn (s : State) : s.hostTurn.resetIn = s.resetIn := by
  cases hh : s.host with
  | nil => rw [hostTurn_nil hh]
  | cons op rest => rw [hostTurn_eq hh, busAccess_frame]

theorem resetIn_complete {s t : State} (h : complete s = .next t) : t.resetIn = s.resetIn := by
  rcases complete_cases h with ⟨i, -, hi⟩ | ⟨e, -, rfl⟩
  · exact (exec_sameHostSide hi).resetIn
  · rfl

theorem resetInv_of_released {s : State} (h : s.resetIn = false) : s.ResetInv := fun hr => by
  simp [h] at hr

/-- While reset is asserted every step leaves the reset values (70_reset R200). -/
theorem resetInv_step {s t : State} (hs : s.ResetInv) (h : step s = .next t) : t.ResetInv := by
  have hpop : s.popSched.ResetInv := resetInv_ownFields hs s.host s.sched.tail s.replies
  rcases step_cases h with ⟨-, rfl⟩ | ⟨-, he, hc⟩ | ⟨-, -, rfl⟩ | ⟨-, rfl⟩ | ⟨-, rfl⟩
  · cases hr : s.popSched.resetIn with
    | false => exact resetInv_of_released ((resetIn_hostTurn _).trans hr)
    | true =>
      obtain ⟨host, replies, hturn⟩ := hostTurn_of_resetIn hr
      rw [hturn]
      exact resetInv_ownFields hpop host s.popSched.sched replies
  · refine resetInv_of_released ((resetIn_complete hc).trans ?_)
    simp [State.engineEnabled] at he
    exact he.2
  · exact hpop
  · exact fun _ => rfl
  · exact resetInv_of_released rfl

/-- Settles O44: the parts of the invariant, each kept by every step. -/
theorem stepKeepsTheInvariant : Obligations.StepKeepsTheInvariant := by
  intro s t hs h
  obtain ⟨hmap, htree, hfit⟩ := buildInv_containerInvariant.step ⟨hs.mapInv, hs.treeInv, hs.codesFit⟩ h
  exact ⟨hmap, htree, stepKeepsTheTableInvariant s t hs.tableInv h, hfit, resetInv_step hs.resetInv h⟩

end Sys2Proof.Machine
end

section
/-! The writers of the result registers (10_state R18 to R21). -/

namespace Sys2Proof.Machine

theorem effect_resSym {i : Instr} (s : State) (hr : i ≠ .softReset) :
    (effect i s).resSym = s.resSym ∨ ∃ b, i = .decBit b ∧ (effect i s).resValid = true := by
  cases ht : writesTree i with
  | true => exact .inl (effect_onlyTree ht s).resSym
  | false =>
    cases i <;> simp [writesTree] at ht hr
    case encode sym => rcases effect_encode_cases sym s with h | ⟨c, h⟩ <;> exact .inl (by rw [h])
    case decBit b =>
      rcases effect_decBit_cases b s with ⟨sym, h⟩ | ⟨-, h⟩
      · exact .inr ⟨b, rfl, by rw [h]⟩
      · exact .inl (by rw [h])
    all_goals exact .inl rfl

theorem effect_resCode {i : Instr} (s : State) (hr : i ≠ .softReset) :
    (effect i s).resLen = s.resLen ∧ (effect i s).resCode = s.resCode ∨ ∃ x, i = .encode x := by
  cases ht : writesTree i with
  | true => exact .inl ⟨(effect_onlyTree ht s).resLen, (effect_onlyTree ht s).resCode⟩
  | false =>
    cases i <;> simp [writesTree] at ht hr
    case encode sym => exact .inr ⟨sym, rfl⟩
    case decBit b => rcases effect_decBit_cases b s with ⟨sym, h⟩ | ⟨-, h⟩ <;> exact .inl (by rw [h]; exact ⟨rfl, rfl⟩)
    all_goals exact .inl ⟨rfl, rfl⟩

theorem effect_resNode {i : Instr} (s : State) (hr : i ≠ .softReset) :
    (effect i s).resNode = s.resNode ∨
      i ∈ [.pqRemoveFirst, .pqMergeStep, .pqExtractRoot, .buildTree] ∨ ∃ idx, i = .pqRemoveAt idx := by
  cases i
  case softReset => exact absurd rfl hr
  case pqLoadLeaves => exact .inl (by change s.loadLeaves.resNode = _; rw [s.loadLeaves_frame])
  case encode sym => rcases effect_encode_cases sym s with h | ⟨c, h⟩ <;> exact .inl (by rw [h])
  case decBit b => rcases effect_decBit_cases b s with ⟨sym, h⟩ | ⟨-, h⟩ <;> exact .inl (by rw [h])
  case pqRemoveAt idx => exact .inr (.inr ⟨idx, rfl⟩)
  case pqRemoveFirst | pqMergeStep | pqExtractRoot | buildTree => exact .inr (.inl (by simp))
  all_goals exact .inl rfl

/-- Settles O33: an error writes no result register, a success only the command's own. -/
theorem resultRegistersHaveTheirWriters : Obligations.ResultRegistersHaveTheirWriters := by
  intro i s t h hr
  rcases exec_cases h with ⟨-, -, rfl⟩ | ⟨-, ⟨e, -, rfl⟩ | ⟨-, rfl⟩⟩
  · exact ⟨.inl rfl, .inl ⟨rfl, rfl⟩, .inl rfl⟩
  · unfold afterError
    split <;> exact ⟨.inl rfl, .inl ⟨rfl, rfl⟩, .inl rfl⟩
  · exact ⟨effect_resSym s hr, (effect_resCode s hr).imp id fun ⟨x, hx⟩ => ⟨x, hx, rfl⟩,
      (effect_resNode s hr).imp id fun hi => ⟨rfl, hi⟩⟩

end Sys2Proof.Machine
end

section
/-! What the registers read as (10_state R14 to R31) and what a write to STATUS, ARG and the index registers does. -/

namespace Sys2Proof.Machine

/-! ## One register's access -/

theorem ofOffset_offset (r : Reg) : Reg.ofOffset r.offset = some r := by
  cases r
  case ctCode k | resCode k | candBits k => revert k; decide +kernel
  all_goals decide +kernel

/-- Every register stands at a multiple of 4 (20_memory R41). -/
theorem wholeWord_offset (r : Reg) : r.offset.extractLsb' 0 2 = 0#2 := by
  cases r
  case ctCode k | resCode k | candBits k => revert k; decide
  all_goals decide

/-- A read of a register whose value is defined now: its value, and the state unchanged (20_memory R45; 70_reset R212). -/
theorem busAccess_read_reg {s : State} {r : Reg} (hr : s.resetIn = false) (hd : s.pend = false ∨ r.definedWhileBusy = true) :
    busAccess (.read .word r.offset) s = (.data (s.regValue r), s) := by
  have hb : (s.pend && !r.definedWhileBusy) = false := by rcases hd with h | h <;> simp [h]
  rw [busAccess_read (by simp [hr, Access.wholeWord, wholeWord_offset])]
  simp [busRead, ofOffset_offset, hb]

/-- A write to a register while reset is released (20_memory R45). -/
theorem busAccess_write_reg {s : State} (r : Reg) (v : Word) (hr : s.resetIn = false) :
    busAccess (.write .word r.offset v) s = (.written, busWrite r.offset v s) :=
  busAccess_write (by simp [hr, Access.wholeWord, wholeWord_offset])

/-- Settles O49: STATUS is defined while a command runs too, and each of its bits is one flag's. -/
theorem statusBits : Obligations.StatusBits := by
  intro s hr
  refine ⟨_, busAccess_read_reg (r := .status) hr (.inr rfl), ?_⟩
  refine ⟨?_, ?_, ?_, ?_, ?_, ?_, fun i hi => ?_⟩
  all_goals simp only [State.regValue, getLsbD_statusWord, getLsbD_bitAt]
  case refine_7 =>
    have : i ≠ 0 ∧ i ≠ 1 ∧ i ≠ 2 ∧ i ≠ 3 ∧ i ≠ 4 ∧ i ≠ 5 := by omega
    simp [this]
  all_goals simp

theorem busWrite_status (v : Word) (s : State) : busWrite Reg.status.offset v s = s.clearSticky v := by
  simp [busWrite, ofOffset_offset]

theorem clearSticky_eq (s : State) (v : Word) :
    s.clearSticky v =
      { s with err := if v.getLsbD 1 then false else s.err, overrun := if v.getLsbD 3 then false else s.overrun } := by
  cases h1 : v.getLsbD 1 <;> cases h3 : v.getLsbD 3 <;> simp only [State.clearSticky, h1, h3] <;> simp

/-- Settles O50: the write's two conditional clears, bit by bit. -/
theorem statusWriteClearsStickyBits : Obligations.StatusWriteClearsStickyBits := by
  intro s v hr
  rw [← clearSticky_eq, ← busWrite_status]
  exact busAccess_write_reg .status v hr

/-- A field of the low bits gives back the bits it stores, with the rest 0. -/
theorem setWidth_extractLsb'_zero (v : Word) (w : Nat) (hw : w ≤ 32) :
    (v.extractLsb' 0 w).setWidth 32 = v &&& BitVec.ofNat 32 (2 ^ w - 1) := by
  have hpow : 2 ^ w ≤ 2 ^ 32 := Nat.pow_le_pow_right (by decide) hw
  have hpos := Nat.two_pow_pos w
  apply BitVec.eq_of_toNat_eq
  rw [BitVec.toNat_setWidth_of_le hw, BitVec.extractLsb'_toNat, BitVec.toNat_and, BitVec.toNat_ofNat,
    Nat.mod_eq_of_lt (a := 2 ^ w - 1) (by omega), Nat.and_two_pow_sub_one_eq_mod, Nat.shiftRight_zero]

/-- A write to a register that reads as defined at any time, and the read after it. -/
theorem write_then_read {s t : State} {r : Reg} {v w : Word} (hr : s.resetIn = false) (hd : r.definedWhileBusy = true)
    (hwrite : busWrite r.offset v s = t) (ht : t.resetIn = false) (hread : t.regValue r = w) :
    ∃ u, busAccess (.write .word r.offset v) s = (.written, u) ∧ u = t ∧ busAccess (.read .word r.offset) u = (.data w, u) :=
  ⟨t, hwrite ▸ busAccess_write_reg r v hr, rfl, hread ▸ busAccess_read_reg ht (.inr hd)⟩

/-- Settles O54: five registers, one write and the read after it each. -/
theorem argAndIndexRegistersStoreTheirBits : Obligations.ArgAndIndexRegistersStoreTheirBits := by
  intro s v hr
  have h9 : v.setWidth 9 = v.extractLsb' 0 9 := BitVec.setWidth_eq_extractLsb' (by decide)
  have h8 : v.setWidth 8 = v.extractLsb' 0 8 := BitVec.setWidth_eq_extractLsb' (by decide)
  refine ⟨?_, ?_, ?_, ?_, ?_⟩
  · exact write_then_read (r := .arg) hr rfl (by simp [busWrite, ofOffset_offset]) hr rfl
  · exact write_then_read (r := .mapIdx) hr rfl (by simp [busWrite, ofOffset_offset, h9]) hr (setWidth_extractLsb'_zero v 9 (by decide))
  · exact write_then_read (r := .pqIdx) hr rfl (by simp [busWrite, ofOffset_offset, h9]) hr (setWidth_extractLsb'_zero v 9 (by decide))
  · exact write_then_read (r := .nodeIdx) hr rfl (by simp [busWrite, ofOffset_offset, h9]) hr (setWidth_extractLsb'_zero v 9 (by decide))
  · exact write_then_read (r := .ctSym) hr rfl (by simp [busWrite, ofOffset_offset, h8]) hr (setWidth_extractLsb'_zero v 8 (by decide))

/-! ## Words made of fields -/

theorem toNat_nineBits {n : Nat} (h : n < 512) : (nineBits n).toNat = n := by
  simp [nineBits]
  omega

/-- Two fields side by side: the high one at bit i, the low one below it. -/
theorem toNat_or_of_fields {hi lo : Word} {i a : Nat} (hhi : hi.toNat = 2 ^ i * a) (hlo : lo.toNat < 2 ^ i) :
    (hi ||| lo).toNat = 2 ^ i * a + lo.toNat := by
  rw [BitVec.toNat_or, hhi, Nat.two_pow_add_eq_or_of_lt hlo]

theorem toNat_bit31_or {lo : Word} (h : lo.toNat < 2 ^ 31) : (bit31 ||| lo).toNat = 2 ^ 31 + lo.toNat :=
  toNat_or_of_fields (i := 31) (a := 1) rfl h

theorem toNat_bit31_or_nineBits {n : Nat} (h : n < 512) : (bit31 ||| nineBits n).toNat = 2 ^ 31 + n := by
  have hn := toNat_nineBits h
  rw [toNat_bit31_or (by omega), hn]

theorem toNat_bit31_or_byte (x : BitVec 8) : (bit31 ||| x.setWidth 32).toNat = 2 ^ 31 + x.toNat := by
  have hx : (x.setWidth 32).toNat = x.toNat := BitVec.toNat_setWidth_of_le (by decide)
  have := x.isLt
  rw [toNat_bit31_or (by omega), hx]

theorem toNat_leafInfo (x : Sym) : (0xC0000000#32 ||| x.setWidth 32).toNat = 2 ^ 31 + 2 ^ 30 + x.toNat := by
  have hx : (x.setWidth 32).toNat = x.toNat := BitVec.toNat_setWidth_of_le (by decide)
  have := x.isLt
  rw [toNat_or_of_fields (i := 30) (a := 3) rfl (by omega), hx]
  rfl

theorem toNat_kids {l r : Nat} (hl : l < 512) (hr : r < 512) :
    (nineBits l ||| nineBits r <<< 16).toNat = l + 2 ^ 16 * r := by
  have hl' := toNat_nineBits hl
  have hr' : (nineBits r <<< 16).toNat = 2 ^ 16 * r := by
    rw [BitVec.toNat_shiftLeft, toNat_nineBits hr, Nat.shiftLeft_eq]
    omega
  rw [BitVec.or_comm, toNat_or_of_fields hr' (by omega), hl', Nat.add_comm]

/-! ## The windows -/

section
variable {s : State}

theorem map_window_of_some {e : MapEntry} (h : s.map[s.mapIdx.toNat]? = some e) :
    s.mapEntSym = bit31 ||| e.sym.setWidth 32 ∧ s.mapEntCnt = e.cnt := by
  simp [State.mapEntSym, State.mapEntCnt, h]

theorem map_window_of_none (h : s.map[s.mapIdx.toNat]? = none) : s.mapEntSym = 0#32 ∧ s.mapEntCnt = 0#32 := by
  simp [State.mapEntSym, State.mapEntCnt, h]

theorem list_window_of_some {n : NodeIdx} (h : s.list[s.pqIdx.toNat]? = some n) :
    s.pqEnt = bit31 ||| nineBits n ∧ s.pqEntKey = s.key n := by
  simp [State.pqEnt, State.pqEntKey, State.lGet, h]

theorem list_window_of_none (h : s.list[s.pqIdx.toNat]? = none) : s.pqEnt = 0#32 ∧ s.pqEntKey = 0#32 := by
  simp [State.pqEnt, State.pqEntKey, State.lGet, h]

theorem node_window_of_leaf {sym : Sym} {f : Count} (h : s.nodes[s.nodeIdx.toNat]? = some (.leaf sym f)) :
    s.nodeInfo = 0xC0000000#32 ||| sym.setWidth 32 ∧ s.nodeFreq = f ∧ s.nodeKids = 0#32 := by
  simp [State.nodeInfo, State.nodeFreq, State.nodeKids, Node.freq, h]

theorem node_window_of_internal {f : Count} {l r : NodeIdx} (h : s.nodes[s.nodeIdx.toNat]? = some (.internal f l r)) :
    s.nodeInfo = bit31 ∧ s.nodeFreq = f ∧ s.nodeKids = (nineBits l ||| nineBits r <<< 16) := by
  simp [State.nodeInfo, State.nodeFreq, State.nodeKids, Node.freq, h]

theorem node_window_of_none (h : s.nodes[s.nodeIdx.toNat]? = none) :
    s.nodeInfo = 0#32 ∧ s.nodeFreq = 0#32 ∧ s.nodeKids = 0#32 := by
  simp [State.nodeInfo, State.nodeFreq, State.nodeKids, h]

theorem code_window_of_some {c : Bits} (h : s.ct.entry s.ctSym = some c) :
    s.ctInfo = bit31 ||| (BitVec.ofNat 8 c.length).setWidth 32 ∧ s.ctCode = packBits c := by
  simp [State.ctInfo, State.ctCode, h]

theorem code_window_of_none (h : s.ct.entry s.ctSym = none) : s.ctInfo = 0#32 ∧ s.ctCode = 0#256 := by
  simp [State.ctInfo, State.ctCode, h]

end

/-- CT_COUNT counts the valid codes (10_state R25). -/
theorem validCount_eq_length_codes (ct : CodeTable) : ct.validCount = ct.codes.length := by
  rw [CodeTable.validCount, CodeTable.codes, List.length_filterMap_eq_countP]
  rfl

theorem length_codes_le (ct : CodeTable) : ct.codes.length ≤ 256 := by
  simpa [CodeTable.codes] using List.length_filterMap_le id ct.toList

/-- Settles O55: each window by the element its index selects, the counts by their nine bits. -/
theorem windowsShowTheSelectedElement : Obligations.WindowsShowTheSelectedElement := by
  intro s
  refine ⟨fun e h => ?_, fun h => map_window_of_none (List.getElem?_eq_none h), fun n h hn => ?_,
    fun h => list_window_of_none (List.getElem?_eq_none h), fun sym f h => ?_, fun f l r h hl hr => ?_,
    fun h => node_window_of_none (List.getElem?_eq_none h), BitVec.toNat_setWidth_of_le (by decide),
    BitVec.toNat_setWidth_of_le (by decide), BitVec.toNat_setWidth_of_le (by decide), rfl,
    toNat_nineBits, toNat_nineBits, toNat_nineBits, fun h => ?_, fun n h hn => ?_, ?_⟩
  · obtain ⟨hsym, hcnt⟩ := map_window_of_some h
    exact ⟨(congrArg BitVec.toNat hsym).trans (toNat_bit31_or_byte e.sym), hcnt⟩
  · obtain ⟨hent, hkey⟩ := list_window_of_some h
    exact ⟨(congrArg BitVec.toNat hent).trans (toNat_bit31_or_nineBits hn),
      fun r hr => by rw [State.regValue, hkey, State.key, s.node_of_getElem? hr]⟩
  · obtain ⟨hinfo, hfreq, hkids⟩ := node_window_of_leaf h
    exact ⟨(congrArg BitVec.toNat hinfo).trans (toNat_leafInfo sym), hfreq, hkids⟩
  · obtain ⟨hinfo, hfreq, hkids⟩ := node_window_of_internal h
    exact ⟨congrArg BitVec.toNat hinfo, hfreq, (congrArg BitVec.toNat hkids).trans (toNat_kids hl hr)⟩
  · simp [State.regValue, State.rootWord, h]
  · simpa [State.regValue, State.rootWord, h] using toNat_bit31_or_nineBits hn
  · have := length_codes_le s.ct
    rw [State.regValue, validCount_eq_length_codes, toNat_nineBits (by omega)]

/-- Settles O56: a word's bit is a packed code's bit, and no field of CT_INFO overlaps another. -/
theorem codeWordsHoldTheBitsInOrder : Obligations.CodeWordsHoldTheBitsInOrder := by
  intro s k j hj
  have hkj : 32 * k.val + j < 256 := by omega
  refine ⟨getLsbD_wordOf _ k j hj, fun c h => ?_, fun h => ?_, ?_, ?_⟩
  · obtain ⟨hinfo, hcode⟩ := code_window_of_some h
    refine ⟨?_, fun hlen => ?_⟩
    · rw [State.regValue, getLsbD_wordOf _ k j hj, hcode, getLsbD_packBits c _ hkj]
    · rw [State.regValue, hinfo, toNat_bit31_or_byte, BitVec.toNat_ofNat, Nat.mod_eq_of_lt (by omega)]
  · obtain ⟨hinfo, hcode⟩ := code_window_of_none h
    exact ⟨by simp [State.regValue, hcode, wordOf], hinfo⟩
  · rw [State.regValue, getLsbD_wordOf _ k j hj, getLsbD_packBits _ _ hkj]
    by_cases hlt : 32 * k.val + j < 255 <;> simp [Config.codeMax, List.getD_eq_getElem?_getD, hlt]
  · have : min s.cand.length (2 ^ 32 - 1) < 2 ^ 32 := by omega
    rw [State.regValue, BitVec.toNat_ofNat, Nat.mod_eq_of_lt this]

end Sys2Proof.Machine
end

section
/-! The register map (20_memory R41 to R46): which accesses are admitted, which offsets are reserved, and which writes are ignored. -/

namespace Sys2Proof.Machine

/-! ## Which accesses are admitted -/

/-- The low two bits of an offset are 0 exactly at the multiples of 4 (20_memory R42). -/
theorem extractLsb'_two_eq_zero_iff (off : Offset) : off.extractLsb' 0 2 = 0#2 ↔ off.toNat % 4 = 0 := by
  rw [← BitVec.toNat_inj, BitVec.extractLsb'_toNat, Nat.shiftRight_zero]
  rfl

theorem wholeWord_read_iff (w : Width) (off : Offset) : (Access.read w off).wholeWord = true ↔ w = .word ∧ off.toNat % 4 = 0 := by
  simp [Access.wholeWord, extractLsb'_two_eq_zero_iff]

theorem wholeWord_write_iff (w : Width) (off : Offset) (v : Word) :
    (Access.write w off v).wholeWord = true ↔ w = .word ∧ off.toNat % 4 = 0 := by
  simp [Access.wholeWord, extractLsb'_two_eq_zero_iff]

/-- Settles O46: neither access is a whole-word access, so both are refused. -/
theorem narrowOrUnalignedAccessIsRefused : Obligations.NarrowOrUnalignedAccessIsRefused := by
  intro s w off v h
  have hn : ¬(w = .word ∧ off.toNat % 4 = 0) := not_and_or.mpr h
  have hread : (Access.read w off).wholeWord = false := by rwa [← Bool.not_eq_true, wholeWord_read_iff]
  have hwrite : (Access.write w off v).wholeWord = false := by rwa [← Bool.not_eq_true, wholeWord_write_iff]
  exact ⟨busAccess_refused (by simp [hread]), busAccess_refused (by simp [hwrite])⟩

/-- Settles O47: a refused read keeps the state, an admitted one may only draw a free value, and only while a command runs. -/
theorem readsHaveNoSideEffects : Obligations.ReadsHaveNoSideEffects := by
  intro s w off
  cases h : s.resetIn || !(Access.read w off).wholeWord
  case true =>
    rw [busAccess_refused h]
    exact ⟨⟨s.draws, rfl⟩, fun _ => rfl⟩
  case false =>
    rw [busAccess_read h]
    rcases busRead_state off s with hs | ⟨hbusy, hs⟩
    · exact ⟨⟨s.draws, hs⟩, fun _ => hs⟩
    · exact ⟨⟨s.draws + 1, hs⟩, fun hidle => absurd hbusy (by simp [hidle])⟩

/-! ## Reserved offsets and ignored writes -/

theorem ofOffset_eq_some_iff {off : Offset} {r : Reg} : Reg.ofOffset off = some r ↔ off = r.offset := by
  constructor
  · intro h
    have : r.offset = off := by simpa using List.find?_some h
    exact this.symm
  · rintro rfl
    exact ofOffset_offset r

/-- The last register, CAND_BITS7, stands at 0x0CC (20_memory R41). -/
theorem offset_lt (r : Reg) : r.offset.toNat < 0x0D0 := by
  cases r
  case ctCode k | resCode k | candBits k => revert k; decide
  all_goals decide

/-- The offsets from 0x0D0 up are reserved (20_memory R41, R44). -/
theorem ofOffset_eq_none {off : Offset} (h : 0x0D0 ≤ off.toNat) : Reg.ofOffset off = none := by
  refine Option.eq_none_iff_forall_ne_some.mpr fun r hr => ?_
  have := offset_lt r
  rw [← ofOffset_eq_some_iff.mp hr] at this
  omega

/-- A write has an effect at seven registers only (20_memory R44, R45). -/
theorem busWrite_ignored {off : Offset} (v : Word) (s : State)
    (h : ∀ r ∈ [Reg.cmd, .arg, .status, .mapIdx, .pqIdx, .nodeIdx, .ctSym], Reg.ofOffset off ≠ some r) : busWrite off v s = s := by
  unfold busWrite
  split
  case h_8 => rfl
  all_goals exact absurd ‹_› (h _ (by decide))

theorem busAccess_reserved {s : State} {off : Offset} (v : Word) (hr : s.resetIn = false) (ha : off.toNat % 4 = 0)
    (hoff : 0x0D0 ≤ off.toNat) :
    busAccess (.read .word off) s = (.data 0#32, s) ∧ busAccess (.write .word off v) s = (.written, s) := by
  have hnone := ofOffset_eq_none hoff
  constructor
  · rw [busAccess_read (by simp [hr, wholeWord_read_iff, ha])]
    simp [busRead, hnone]
  · rw [busAccess_write (by simp [hr, wholeWord_write_iff, ha]), busWrite_ignored v s (by simp [hnone])]

theorem busAccess_write_readOnly {s : State} {r : Reg} (v : Word) (hr : s.resetIn = false)
    (hro : r ∉ [Reg.cmd, .arg, .status, .mapIdx, .pqIdx, .nodeIdx, .ctSym]) :
    busAccess (.write .word r.offset v) s = (.written, s) := by
  rw [busAccess_write_reg r v hr, busWrite_ignored v s]
  rintro r' hr' heq
  obtain rfl : r = r' := Option.some.inj ((ofOffset_offset r).symm.trans heq)
  exact hro hr'

/-! ## The register map -/

/-- The eight registers of a bank stand at consecutive words from its base (20_memory R41). -/
theorem toNat_offset_banked (k : Fin 8) :
    (Reg.ctCode k).offset.toNat = 0x070 + 4 * k.val ∧ (Reg.resCode k).offset.toNat = 0x090 + 4 * k.val ∧
      (Reg.candBits k).offset.toNat = 0x0B0 + 4 * k.val := by
  revert k
  decide

/-- Settles O48: the map's offsets by evaluation, the accesses by the lemmas on idle reads, reserved offsets and ignored writes. -/
theorem registerMapAndReservedOffsets : Obligations.RegisterMapAndReservedOffsets := by
  refine ⟨fun r off h => ?_, toNat_offset_banked, ofOffset_offset, fun _ _ => ofOffset_eq_some_iff.mp,
    fun _ _ hr hidle => busAccess_read_reg hr (.inl hidle), fun _ _ v hr => busAccess_reserved v hr,
    fun _ _ v hr => busAccess_write_readOnly v hr, fun _ hr => busAccess_read_reg (r := .cmd) hr (.inr rfl)⟩
  rcases h with h | h <;> exact (by decide : ∀ p ∈ _, p.1.offset = p.2) (r, off) h

end Sys2Proof.Machine
end

section
/-! The decoder (30_encoding R60 to R67): which words are a command, which are refused and by which check, and how a refused word
completes. -/

namespace Sys2Proof

open Machine

/-! ## The fields of CMD -/

/-- CMD[31:8] is zero exactly in the words below 0x100 (30_encoding R60). -/
theorem CommandWords.mbz_eq_zero_iff (w : CommandWords) : w.mbz = 0#24 ↔ w.cmd.toNat < 0x100 := by
  have := w.cmd.isLt
  rw [mbz, ← BitVec.toNat_inj, BitVec.extractLsb'_toNat, Nat.shiftRight_eq_div_pow, BitVec.toNat_ofNat]
  omega

theorem CommandWords.toNat_opc (w : CommandWords) : w.opc.toNat = w.cmd.toNat % 256 := by
  rw [opc, BitVec.extractLsb'_toNat, Nat.shiftRight_zero]

/-- No row of the opcode map has its opcode in one of the five reserved ranges (30_encoding R64). -/
theorem opcodeMap_not_reserved : ∀ r ∈ opcodeMap,
    ¬((0x03 ≤ r.opc.toNat ∧ r.opc.toNat ≤ 0x0F) ∨ (0x14 ≤ r.opc.toNat ∧ r.opc.toNat ≤ 0x1F) ∨
      (0x23 ≤ r.opc.toNat ∧ r.opc.toNat ≤ 0x2F) ∨ (0x31 ≤ r.opc.toNat ∧ r.opc.toNat ≤ 0x3F) ∨
      (0x44 ≤ r.opc.toNat ∧ r.opc.toNat ≤ 0xFE)) := by decide

theorem opcodeRow_eq_none_iff {opc : BitVec 8} : opcodeRow opc = none ↔ ∀ r ∈ opcodeMap, r.opc ≠ opc := by
  simp [opcodeRow]

/-! ## The decoder's answers -/

/-- The decoder answers a command when all three checks pass, and it is the one the opcode's row builds (30_encoding R67). -/
theorem decode_eq_ok_iff {w : CommandWords} {i : Instr} :
    decode w = .ok i ↔ w.mbz = 0#24 ∧ ∃ r, opcodeRow w.opc = some r ∧ r.form.legal w.arg = true ∧ r.build w.arg = i := by
  by_cases hm : w.mbz = 0#24
  · cases hr : opcodeRow w.opc with
    | none => simp [decode, decodeOpcode, hm, hr]
    | some r => by_cases hl : r.form.legal w.arg = true <;> simp [decode, decodeOpcode, hm, hr, hl]
  · simp [decode, hm]

theorem decode_eq_cmdMustBeZero {w : CommandWords} (h : 0x100 ≤ w.cmd.toNat) : decode w = .error .cmdMustBeZero :=
  if_neg fun hm => absurd (w.mbz_eq_zero_iff.mp hm) (by omega)

theorem decode_eq_reservedOpcode {w : CommandWords} (hm : w.cmd.toNat < 0x100) (hr : opcodeRow w.opc = none) :
    decode w = .error .reservedOpcode := by
  simp [decode, decodeOpcode, w.mbz_eq_zero_iff.mpr hm, hr]

theorem decode_eq_illegalOperand {i : Instr} {arg : Word} (h : (formOf i).legal arg = false) :
    decode ⟨(encode i).cmd, arg⟩ = .error .illegalOperand := by
  obtain ⟨r, hr, hform, -⟩ := opcodeRow_opcodeOf i
  simp [decode, decodeOpcode, encode, hr, hform, h]

/-- A command's own operand word has its must-be-zero bits zero (30_encoding R62). -/
theorem legal_operandWord (i : Instr) : (formOf i).legal (operandWord i) = true := by
  cases i
  case mapCount sym | encode sym => exact legal_symArg sym
  case pqRemoveAt idx => exact legal_idxArg idx
  case decBit b => exact legal_bitArg b
  all_goals rfl

/-- The words of a command are read back as it: its row builds it from its own operand, or from any word when its form is NONE. -/
theorem decode_of_words {w : CommandWords} {i : Instr} (hcmd : w.cmd = (encode i).cmd)
    (harg : formOf i = .none ∨ w.arg = (encode i).arg) : decode w = .ok i := by
  obtain ⟨cmd, arg⟩ := w
  obtain rfl : cmd = (opcodeOf i).setWidth 32 := hcmd
  obtain ⟨r, hr, hform, hbuild, hnone⟩ := opcodeRow_opcodeOf i
  refine decode_eq_ok_iff.mpr ⟨mbz_setWidth _ _, r, by rw [opc_setWidth, hr], ?_⟩
  rw [hform]
  rcases harg with hn | rfl
  · exact ⟨by rw [hn]; rfl, hnone hn arg⟩
  · exact ⟨legal_operandWord i, hbuild⟩

/-- The words that are read as a command are its own: the row found is that of its opcode. -/
theorem words_of_decode {w : CommandWords} {i : Instr} (h : decode w = .ok i) :
    w.cmd = (encode i).cmd ∧ (formOf i = .none ∨ w.arg = (encode i).arg) := by
  obtain ⟨hm, r, hr, hl, rfl⟩ := decode_eq_ok_iff.mp h
  obtain ⟨hmem, hopc⟩ := opcodeRow_eq_some hr
  obtain ⟨hcode, hform, harg⟩ := build_of_row hmem hl
  refine ⟨?_, by rwa [hform]⟩
  calc w.cmd = w.opc.setWidth 32 := cmd_of_fields hm
    _ = (opcodeOf (r.build w.arg)).setWidth 32 := by rw [hcode, hopc]

/-- Settles O1: the encoder's words are decoded to their command, and only those. -/
theorem decodesExactlyTheCommandWords : Obligations.DecodesExactlyTheCommandWords := fun _ _ =>
  ⟨words_of_decode, fun h => decode_of_words h.1 h.2⟩

/-- Settles O2: the seven commands by O1's reading of their words, the three refusals by evaluation. -/
theorem specWordsDecode : Obligations.SpecWordsDecode :=
  ⟨decode_of_words rfl (.inl rfl), decode_of_words rfl (.inr rfl), decode_of_words rfl (.inr rfl), decode_of_words rfl (.inl rfl),
    decode_of_words rfl (.inl rfl), decode_of_words rfl (.inr rfl), decode_of_words rfl (.inl rfl), rfl, rfl, rfl⟩

/-! ## The completion of words that are no command -/

theorem complete_of_decode_error {s : State} {e : DecodeError} (h : decode s.pendWords = .error e) :
    complete s = rejected e s.retire := by
  rw [complete, h]

/-- Outside the fatal state refused words change the error report only: neither of their two errors is fatal (30_encoding R64 to R67). -/
theorem rejected_of_not_fatal {s : State} (h : s.fatal = false) (e : DecodeError) :
    rejected e s = .next { s with errCode := errorOf e, err := true } := by
  have he : (errorOf e).isFatal = false := by cases e <;> rfl
  rw [rejected, guarded_of_not_fatal h, State.raised, he, Bool.or_false]

theorem step_of_decode_error {s : State} {e : DecodeError} (hc : s.Completing) (hf : s.fatal = false)
    (hd : decode s.pendWords = .error e) :
    step s = .next { s with pend := false, sched := s.sched.tail, errCode := errorOf e, err := true } := by
  obtain ⟨hturn, hpend, hreset⟩ := hc
  calc step s = complete s.popSched := step_of_completing hturn hpend hreset
    _ = rejected e s.popSched.retire := complete_of_decode_error hd
    _ = _ := rejected_of_not_fatal (s := s.popSched.retire) hf e

/-- Settles O4: the first check of the decoder. -/
theorem nonzeroCmdHighBitsAreIllegal : Obligations.NonzeroCmdHighBitsAreIllegal := fun _ hc hf h =>
  step_of_decode_error hc hf (decode_eq_cmdMustBeZero h)

/-- Settles O3: CMD[31:8] not zero is O4's case, and otherwise the opcode has no row. -/
theorem reservedOpcodeIsIllegal : Obligations.ReservedOpcodeIsIllegal := by
  intro s o hc hf ho hrange
  rcases Nat.lt_or_ge s.pendCmd.toNat 0x100 with hm | hm
  · have hnone : opcodeRow s.pendWords.opc = none := by
      refine opcodeRow_eq_none_iff.mpr fun r hr heq => opcodeMap_not_reserved r hr ?_
      have hopc : r.opc.toNat = o := by rw [heq, CommandWords.toNat_opc, ho]; rfl
      rwa [hopc]
    exact step_of_decode_error hc hf (decode_eq_reservedOpcode hm hnone)
  · exact nonzeroCmdHighBitsAreIllegal s hc hf hm

/-- The words of a command with an ARG that is not legal in its form complete with ILLEGAL_OPERAND (30_encoding R66). -/
theorem step_of_illegalOperand {s : State} (i : Instr) (hc : s.Completing) (hf : s.fatal = false)
    (hcmd : s.pendCmd = (encode i).cmd) (hl : ¬(formOf i).legal s.pendArg = true) :
    step s = .next { s with pend := false, sched := s.sched.tail, errCode := .illegalOperand, err := true } :=
  step_of_decode_error (e := .illegalOperand) hc hf (by
    rw [State.pendWords, hcmd]
    exact decode_eq_illegalOperand (by simpa using hl))

/-- Settles O5: the bound of each operand form; by O1 a command of form NONE is read from its CMD word alone. -/
theorem operandMustBeZeroBits : Obligations.OperandMustBeZeroBits := by
  refine ⟨fun s hc hf h => ?_, fun i cmd arg arg' hn h => decode_of_words (words_of_decode h).1 (.inl hn)⟩
  rcases h with ⟨hcmd, harg⟩ | ⟨hcmd, harg⟩ | ⟨hcmd, harg⟩ | ⟨hcmd, harg⟩
  · exact step_of_illegalOperand (.mapCount 0) hc hf hcmd (legal_sym.not.mpr (by omega))
  · exact step_of_illegalOperand (.encode 0) hc hf hcmd (legal_sym.not.mpr (by omega))
  · exact step_of_illegalOperand (.pqRemoveAt 0) hc hf hcmd (legal_idx.not.mpr (by omega))
  · exact step_of_illegalOperand (.decBit false) hc hf hcmd (legal_bit.not.mpr (by omega))

end Sys2Proof
end

section
/-! The frequency map's commands (40_frequency_map R100 to R103): MAP_CLEAR, one MAP_COUNT, and a run of MAP_COUNTs. -/

namespace Sys2Proof.Machine

/-! ## A command by its checks (60_exceptions R182, R184, R187) -/

theorem raised_of_not_isFatal (s : State) {e : ErrCode} (h : e.isFatal = false) :
    s.raised e = { s with errCode := e, err := true } := by
  rw [State.raised, h, Bool.or_false]

/-- Every command but SOFT_RESET is locked in the fatal state (60_exceptions R187). -/
theorem lockedWhenFatal {i : Instr} (hi : i ≠ .softReset) : LockedWhenFatal i := by
  intro s hf
  rw [exec_eq, if_pos ⟨hf, hi⟩, raised_of_not_isFatal s rfl]

theorem exec_of_check_eq_none {i : Instr} {s : State} (hf : s.fatal = false) (hc : check i s = none) :
    exec i s = .next (effect i s).succeeded := by
  rw [exec_eq, if_neg (by simp [hf]), hc]

theorem exec_of_check_eq_some {i : Instr} {s : State} {e : ErrCode} (hf : s.fatal = false) (hc : check i s = some e) :
    exec i s = .next ((afterError i s).raised e) := by
  rw [exec_eq, if_neg (by simp [hf]), hc]

/-- Only BUILD_TREE changes more than the report on an error (60_exceptions R182). -/
theorem afterError_of_ne_buildTree {i : Instr} (s : State) (hi : i ≠ .buildTree) : afterError i s = s := if_neg hi

theorem execAll_cons_of_next {i : Instr} {is : List Instr} {s t : State} (h : exec i s = .next t) :
    execAll (i :: is) s = execAll is t := by
  rw [execAll, h]

/-! ## MAP_CLEAR -/

theorem exec_mapClear {s : State} (hf : s.fatal = false) :
    exec .mapClear s = .next { s with map := [], total := 0#32, errCode := .none } :=
  exec_of_check_eq_none hf rfl

/-- Settles O9: MAP_CLEAR checks nothing but the fatal state. -/
theorem mapClearEmptiesTheMap : Obligations.MapClearEmptiesTheMap :=
  ⟨fun _ => decode_of_words rfl (.inl rfl), lockedWhenFatal (by simp), fun _ => exec_mapClear⟩

/-! ## MAP_COUNT -/

theorem countSymbol_of_fresh {sym : Sym} {m : List MapEntry} (h : ∀ e ∈ m, e.sym ≠ sym) :
    countSymbol sym m = m ++ [⟨sym, 1#32⟩] := by
  induction m with
  | nil => rfl
  | cons e rest ih =>
    obtain ⟨he, hrest⟩ := List.forall_mem_cons.mp h
    rw [countSymbol, if_neg he, ih hrest, List.cons_append]

theorem countSymbol_of_counted {sym : Sym} {pre post : List MapEntry} {e : MapEntry} (he : e.sym = sym)
    (hpre : ∀ x ∈ pre, x.sym ≠ sym) : countSymbol sym (pre ++ e :: post) = pre ++ ⟨sym, e.cnt + 1#32⟩ :: post := by
  induction pre with
  | nil => rw [List.nil_append, countSymbol, if_pos he, he, List.nil_append]
  | cons x rest ih =>
    obtain ⟨hx, hrest⟩ := List.forall_mem_cons.mp hpre
    rw [List.cons_append, countSymbol, if_neg hx, ih hrest, List.cons_append]

theorem exec_mapCount {s : State} {sym : Sym} (hf : s.fatal = false) (ht : s.total ≠ 0xFFFFFFFF#32) :
    exec (.mapCount sym) s =
      .next { s with map := countSymbol sym s.map, total := s.total + 1#32, errCode := .none } :=
  exec_of_check_eq_none hf (if_neg ht)

theorem exec_mapCount_overflow {s : State} {sym : Sym} (hf : s.fatal = false) (ht : s.total = 0xFFFFFFFF#32) :
    exec (.mapCount sym) s = .next { s with errCode := .countOverflow, err := true } := by
  have hc : check (.mapCount sym) s = some .countOverflow := if_pos ht
  rw [exec_of_check_eq_some hf hc, afterError_of_ne_buildTree s (by simp), raised_of_not_isFatal s rfl]

/-- Settles O10: the operand by its form's bound, the overflow by the one check, and the two other cases by where the symbol stands in
MAP. -/
theorem mapCountCountsOneOccurrence : Obligations.MapCountCountsOneOccurrence := by
  refine ⟨fun _ => decode_of_words rfl (.inr rfl), fun _ => lockedWhenFatal (by simp), fun arg harg => ⟨?_, rfl⟩, fun sym s hf => ?_⟩
  · have hillegal : ¬Form.sym.legal arg = true := legal_sym.not.mpr (by omega)
    exact decode_eq_illegalOperand (i := .mapCount 0) (Bool.eq_false_of_not_eq_true hillegal)
  · refine ⟨exec_mapCount_overflow hf, fun ht hfresh => ?_, fun ht pre e post hm he hpre => ?_⟩
    · rw [exec_mapCount hf ht, countSymbol_of_fresh hfresh]
    · rw [exec_mapCount hf ht, hm, countSymbol_of_counted he hpre]

/-! ## A run of MAP_COUNTs -/

/-- An entry after one occurrence was counted: another symbol's, left alone; the symbol's own, one up; or a fresh one. -/
theorem mem_countSymbol {sym : Sym} {m : List MapEntry} (hm : (m.map (·.sym)).Nodup) {e : MapEntry} (he : e ∈ countSymbol sym m) :
    (e.sym ≠ sym ∧ e ∈ m) ∨ (∃ x ∈ m, x.sym = sym ∧ e = ⟨sym, x.cnt + 1#32⟩) ∨ (sym ∉ m.map (·.sym) ∧ e = ⟨sym, 1#32⟩) := by
  induction m with
  | nil => exact .inr (.inr ⟨by simp, by simpa [countSymbol] using he⟩)
  | cons x rest ih =>
    obtain ⟨hx, hrest⟩ := List.nodup_cons.mp hm
    by_cases hs : x.sym = sym
    · rw [countSymbol, if_pos hs, List.mem_cons] at he
      rcases he with rfl | he
      · exact .inr (.inl ⟨x, by simp, hs, by rw [hs]⟩)
      · exact .inl ⟨fun h => hx (List.mem_map.mpr ⟨e, he, h.trans hs.symm⟩), List.mem_cons_of_mem _ he⟩
    · rw [countSymbol, if_neg hs, List.mem_cons] at he
      rcases he with rfl | he
      · exact .inl ⟨hs, by simp⟩
      · rcases ih hrest he with ⟨hne, hmem⟩ | ⟨y, hy, hown⟩ | ⟨hnot, hfresh⟩
        · exact .inl ⟨hne, List.mem_cons_of_mem _ hmem⟩
        · exact .inr (.inl ⟨y, List.mem_cons_of_mem _ hy, hown⟩)
        · exact .inr (.inr ⟨by simpa [Ne.symm hs] using hnot, hfresh⟩)

theorem eraseDups_append_singleton (l : List Sym) (x : Sym) :
    (l ++ [x]).eraseDups = if x ∈ l then l.eraseDups else l.eraseDups ++ [x] := by
  by_cases h : x ∈ l <;> simp [List.eraseDups_append, List.removeAll, List.eraseDups_cons, h]

/-- MAP and TOTAL after exactly the occurrences `syms` were counted, from an empty map (40_frequency_map R102, R103). -/
structure State.Counted (s : State) (syms : List Sym) : Prop where
  mapInv : s.MapInv
  total : s.total.toNat = syms.length
  keys : s.keys = syms.eraseDups
  counts : ∀ e ∈ s.map, e.cnt.toNat = syms.count e.sym

theorem counted_nil {s : State} (hm : s.map = []) (ht : s.total = 0#32) : s.Counted [] where
  mapInv := mapInv_of_empty hm ht
  total := by simp [ht]
  keys := by simp [State.keys, hm]
  counts := by simp [hm]

theorem State.Counted.mem_keys {s : State} {syms : List Sym} (h : s.Counted syms) {x : Sym} : x ∈ s.map.map (·.sym) ↔ x ∈ syms := by
  rw [← List.mem_eraseDups (l := syms), ← h.keys, State.keys]

/-- The counts after one more occurrence; none wraps, since each is at most the number of occurrences (40_frequency_map R101, corner
cases). -/
theorem State.Counted.counts_countSymbol {s : State} {syms : List Sym} (h : s.Counted syms) (hlen : syms.length < 2 ^ 32 - 1)
    (x : Sym) : ∀ e ∈ countSymbol x s.map, e.cnt.toNat = (syms ++ [x]).count e.sym := by
  intro e he
  rcases mem_countSymbol h.mapInv.keysDistinct he with ⟨hne, hmem⟩ | ⟨y, hy, rfl, rfl⟩ | ⟨hnot, rfl⟩
  · have hzero : [x].count e.sym = 0 := List.count_eq_zero.mpr (by simpa using hne)
    rw [h.counts e hmem, List.count_append, hzero, Nat.add_zero]
  · have hcnt := h.counts y hy
    have hle := List.count_le_length (a := y.sym) (l := syms)
    simp [hcnt]
    omega
  · have hzero := List.count_eq_zero.mpr (h.mem_keys.not.mp hnot)
    simp [hzero]

/-- One MAP_COUNT below the greatest total counts one more occurrence (40_frequency_map R101). -/
theorem counted_exec_mapCount {s : State} {syms : List Sym} (h : s.Counted syms) (hf : s.fatal = false)
    (hlen : syms.length < 2 ^ 32 - 1) (x : Sym) :
    ∃ t, exec (.mapCount x) s = .next t ∧ t.fatal = false ∧ t.Counted (syms ++ [x]) := by
  have htot := h.total
  have ht : s.total ≠ 0xFFFFFFFF#32 := fun he => by simp [he] at htot; omega
  refine ⟨_, exec_mapCount hf ht, hf, mapInv_congr (s := effect (.mapCount x) s) rfl rfl (mapInv_mapCount h.mapInv ht), ?_, ?_,
    h.counts_countSymbol hlen x⟩
  · simp [htot]
    omega
  · rw [eraseDups_append_singleton, ← h.keys]
    simp only [State.keys, keys_countSymbol, h.mem_keys]

theorem counted_execAll_mapCount {s : State} {done todo : List Sym} (h : s.Counted done) (hf : s.fatal = false)
    (hlen : done.length + todo.length < 2 ^ 32) :
    ∃ t, execAll (todo.map .mapCount) s = .next t ∧ t.fatal = false ∧ t.Counted (done ++ todo) := by
  induction todo generalizing s done with
  | nil => exact ⟨s, rfl, hf, by rwa [List.append_nil]⟩
  | cons x rest ih =>
    rw [List.length_cons] at hlen
    obtain ⟨u, hexec, hfu, hu⟩ := counted_exec_mapCount h hf (by omega) x
    obtain ⟨t, hall, hft, ht⟩ := ih hu hfu (by rw [List.length_append, List.length_singleton]; omega)
    exact ⟨t, (execAll_cons_of_next hexec).trans hall, hft, by rwa [List.append_assoc] at ht⟩

/-- MAP_CLEAR and one MAP_COUNT per symbol count the whole input (40_frequency_map R103). -/
theorem execAll_mapClear_mapCount {s : State} {syms : List Sym} (hf : s.fatal = false) (hlen : syms.length < 2 ^ 32) :
    ∃ t, execAll (.mapClear :: syms.map .mapCount) s = .next t ∧ t.fatal = false ∧ t.Counted syms := by
  rw [execAll_cons_of_next (exec_mapClear hf)]
  exact counted_execAll_mapCount (counted_nil rfl rfl) hf (by simpa using hlen)

/-- Settles O35: MAP_CLEAR leaves nothing counted and each MAP_COUNT counts one more; the sum of the counts is TOTAL by 10_state R32. -/
theorem countingCountsEveryOccurrence : Obligations.CountingCountsEveryOccurrence := by
  intro s syms hf hlen
  obtain ⟨t, hall, -, ht⟩ := execAll_mapClear_mapCount hf hlen
  exact ⟨t, hall, ht.total, ht.mapInv.sumIsTotal.trans ht.total, ht.keys, ht.counts⟩

end Sys2Proof.Machine
end

section
/-! The priority list's commands (41_priority_list R112, R117 to R121): insertion, PQ_CLEAR, PQ_LOAD_LEAVES and the two removals. -/

namespace Sys2Proof.Machine

/-! ## A command that ends with an error (60_exceptions R182, R186) -/

theorem exec_of_underflow {i : Instr} {s : State} (hf : s.fatal = false) (hi : i ≠ .buildTree)
    (hc : check i s = some .underflowViolation) :
    exec i s = .next { s with errCode := .underflowViolation, err := true, fatal := true } := by
  have hfatal : (s.fatal || ErrCode.isFatal .underflowViolation) = true := Bool.or_true _
  rw [exec_of_check_eq_some hf hc, afterError_of_ne_buildTree s hi, State.raised, hfatal]

theorem exec_of_nonfatal_error {i : Instr} {s : State} {e : ErrCode} (hf : s.fatal = false) (hi : i ≠ .buildTree)
    (hc : check i s = some e) (he : e.isFatal = false) : exec i s = .next { s with errCode := e, err := true } := by
  rw [exec_of_check_eq_some hf hc, afterError_of_ne_buildTree s hi, raised_of_not_isFatal s he]

/-! ## L_INSERT -/

/-- Settles O26: where `insertByKey` puts its entry. -/
theorem insertGoesBeforeTheFirstGreater : Obligations.InsertGoesBeforeTheFirstGreater := by
  intro s n
  obtain ⟨pre, post, hlist, hins, hpre, hpost⟩ := insertByKey_cases s.key n s.list
  exact ⟨pre, post, hlist, by rw [State.lInsert, hins], hpre, hpost⟩

/-! ## PQ_CLEAR -/

/-- Settles O11: PQ_CLEAR checks nothing but the fatal state. -/
theorem pqClearEmptiesListAndArena : Obligations.PqClearEmptiesListAndArena :=
  ⟨fun _ => decode_of_words rfl (.inl rfl), lockedWhenFatal (by simp), fun _ hf => exec_of_check_eq_none hf rfl⟩

/-! ## PQ_LOAD_LEAVES -/

theorem exec_pqLoadLeaves {s : State} (hf : s.fatal = false) :
    exec .pqLoadLeaves s =
      .next { s with
        nodes := s.map.map fun e => .leaf e.sym e.cnt, list := s.loadLeaves.list, root := none, errCode := .none } := by
  rw [exec_of_check_eq_none hf rfl, ← s.loadLeaves_nodes]
  exact congrArg (Host.Outcome.next ∘ State.succeeded) s.loadLeaves_frame

/-- Every allocated node stands in LIST, once and in its order: what holds before and after each iteration of PQ_LOAD_LEAVES' loop,
whatever MAP holds (41_priority_list R117, R121). -/
structure State.AllListed (s : State) : Prop where
  perm : s.list.Perm (List.range s.nodeCount)
  ordered : s.list.Pairwise s.before

theorem State.AllListed.lt {s : State} (h : s.AllListed) {m : NodeIdx} (hm : m ∈ s.list) : m < s.nodeCount :=
  List.mem_range.mp (h.perm.mem_iff.mp hm)

/-- The new leaf has the greatest index and goes after the entries of equal key; the keys of the others stay. -/
theorem allListed_loadLeaf {s : State} (h : s.AllListed) (e : MapEntry) : (s.loadLeaf e).AllListed := by
  rw [loadLeaf_eq_allocInsert]
  constructor
  case perm =>
    have hcount : (s.allocInsert (.leaf e.sym e.cnt) s.list).nodeCount = s.nodeCount + 1 := s.nodeCount_alloc _
    rw [hcount, List.range_succ]
    exact ((insertByKey_perm _ _ _).trans (h.perm.cons _)).trans (List.perm_append_singleton _ _).symm
  case ordered =>
    refine pairwise_before_insertByKey (s := s.alloc (.leaf e.sym e.cnt)) ?_ fun m => h.lt
    refine h.ordered.imp_of_mem fun {a b} ha hb hab => ?_
    simpa only [State.before, s.key_alloc_of_lt _ (h.lt ha), s.key_alloc_of_lt _ (h.lt hb)] using hab

theorem allListed_loadLeaves (s : State) : s.loadLeaves.AllListed :=
  List.foldlRecOn s.map State.loadLeaf ⟨List.Perm.nil, List.Pairwise.nil⟩ fun _ h e _ => allListed_loadLeaf h e

theorem nodeCount_loadLeaves (s : State) : s.loadLeaves.nodeCount = s.map.length := by
  rw [State.nodeCount, s.loadLeaves_nodes, List.length_map]

/-- The key of leaf m is the count of MAP's entry m (41_priority_list R117). -/
theorem key_loadLeaves {s : State} {m : NodeIdx} (hm : m < s.loadLeaves.nodeCount) :
    s.loadLeaves.key m = (s.map.map (·.cnt)).getD m 0#32 := by
  rw [nodeCount_loadLeaves] at hm
  have hleaf : s.loadLeaves.nodes[m]? = some (.leaf s.map[m].sym s.map[m].cnt) := by simp [s.loadLeaves_nodes, hm]
  rw [State.key, s.loadLeaves.node_of_getElem? hleaf]
  simp [Node.freq, hm]

/-- Settles O12: the loop keeps every leaf in LIST, in the order of the keys, and these are MAP's counts. -/
theorem pqLoadLeavesOrdersTheLeaves : Obligations.PqLoadLeavesOrdersTheLeaves := by
  refine ⟨fun _ => decode_of_words rfl (.inl rfl), lockedWhenFatal (by simp), fun s hf => ?_⟩
  have hl := allListed_loadLeaves s
  refine ⟨s.loadLeaves.list, exec_pqLoadLeaves hf, nodeCount_loadLeaves s ▸ hl.perm, ?_⟩
  refine hl.ordered.imp_of_mem fun {a b} ha hb hab => ?_
  rwa [State.before, key_loadLeaves (hl.lt ha), key_loadLeaves (hl.lt hb)] at hab

/-! ## The removals -/

section
variable {s : State} {pre post : List NodeIdx} {n : NodeIdx}

theorem lGet_of_split (h : s.list = pre ++ n :: post) : s.lGet pre.length = some n := by
  simp [State.lGet, h]

theorem lRemoveAt_of_split (h : s.list = pre ++ n :: post) : s.lRemoveAt pre.length = { s with list := pre ++ post } := by
  simp [State.lRemoveAt, h, List.eraseIdx_append_of_length_le]

theorem exec_pqRemoveAt {idx : BitVec 9} (hf : s.fatal = false) (h : s.list = pre ++ n :: post) (hi : pre.length = idx.toNat) :
    exec (.pqRemoveAt idx) s = .next { s with list := pre ++ post, resNode := BitVec.ofNat 9 n, errCode := .none } := by
  have hsize : s.lSize = idx.toNat + (post.length + 1) := by simp [State.lSize, h, hi]
  have hc : check (.pqRemoveAt idx) s = none := by rw [check, if_neg (by omega), if_neg (by omega)]
  rw [exec_of_check_eq_none hf hc, effect, ← hi, lGet_of_split h, lRemoveAt_of_split h]
  rfl

theorem exec_pqRemoveFirst (hf : s.fatal = false) (h : s.list = n :: post) :
    exec .pqRemoveFirst s = .next { s with list := post, resNode := BitVec.ofNat 9 n, errCode := .none } := by
  have hc : check .pqRemoveFirst s = none := if_neg (by simp [State.lSize, h])
  have hget : s.lGet 0 = some n := lGet_of_split (pre := []) h
  have hremove : s.lRemoveFirst = { s with list := post } := lRemoveAt_of_split (pre := []) h
  rw [exec_of_check_eq_none hf hc, effect, hget, hremove]
  rfl

theorem exec_pqRemoveAt_indexRange {idx : BitVec 9} (hf : s.fatal = false) (hne : s.list ≠ []) (hi : s.list.length ≤ idx.toNat) :
    exec (.pqRemoveAt idx) s = .next { s with errCode := .indexRange, err := true } := by
  have hsize : s.lSize ≠ 0 := List.length_eq_zero_iff.not.mpr hne
  have hc : check (.pqRemoveAt idx) s = some .indexRange := (if_neg hsize).trans (if_pos hi)
  exact exec_of_nonfatal_error hf (by simp) hc rfl

end

/-- Settles O13: the empty list by PQ_REMOVE_FIRST's one check, any other by the removal at position 0. -/
theorem pqRemoveFirstTakesTheFirstEntry : Obligations.PqRemoveFirstTakesTheFirstEntry := by
  refine ⟨fun _ => decode_of_words rfl (.inl rfl), lockedWhenFatal (by simp), fun s hf => ⟨fun h => ?_, ?_⟩⟩
  · exact exec_of_underflow hf (by simp) (if_pos (congrArg List.length h))
  · exact fun _ _ => exec_pqRemoveFirst hf

/-- Settles O14: the operand by its form's bound, the empty list and the index by the two checks in their order, and the removal. -/
theorem pqRemoveAtRemovesByPosition : Obligations.PqRemoveAtRemovesByPosition := by
  refine ⟨fun _ => decode_of_words rfl (.inr rfl), fun _ => lockedWhenFatal (by simp), fun arg harg => ⟨?_, rfl⟩, fun idx s hf => ?_⟩
  · have hillegal : ¬Form.idx.legal arg = true := legal_idx.not.mpr (by omega)
    exact decode_eq_illegalOperand (i := .pqRemoveAt 0) (Bool.eq_false_of_not_eq_true hillegal)
  · refine ⟨fun h => ?_, exec_pqRemoveAt_indexRange hf, fun _ _ _ => exec_pqRemoveAt hf⟩
    exact exec_of_underflow hf (by simp) (if_pos (congrArg List.length h))

end Sys2Proof.Machine
end

section
/-! The tree builder's commands (42_tree_builder R130 to R134): one merge, the extraction of ROOT, and BUILD_TREE as a fixed number of merges
between a load and an extraction. -/

namespace Sys2Proof.Machine

theorem State.OnlyTree.fatal {s t : State} (h : s.OnlyTree t) : t.fatal = s.fatal := by rw [h]

theorem State.onlyTree_buildTree (s : State) : s.OnlyTree s.buildTree := effect_onlyTree (i := .buildTree) rfl s

/-! ## PQ_MERGE_STEP -/

theorem exec_pqMergeStep {s : State} (hf : s.fatal = false) (h : 1 < s.lSize) :
    exec .pqMergeStep s = .next s.mergeStep.succeeded :=
  exec_of_check_eq_none hf (if_neg (Nat.not_lt.mpr h))

/-- Settles O15: the two checks, and one merge with the new node where `insertByKey` puts it; its key is the sum of the two removed ones. -/
theorem pqMergeStepMergesTheTwoFirst : Obligations.PqMergeStepMergesTheTwoFirst := by
  refine ⟨fun _ => decode_of_words rfl (.inl rfl), lockedWhenFatal (by simp), fun s hf => ⟨fun h => ?_, fun l r rest h => ?_⟩⟩
  · exact exec_of_underflow hf (by simp) (if_pos h)
  · obtain ⟨pre, post, hrest, hins, hpre, hpost⟩ :=
      insertByKey_cases (s.alloc (.internal (s.key l + s.key r) l r)).key s.nodeCount rest
    rw [s.key_alloc_self] at hpre hpost
    refine ⟨pre, post, _, hrest, ?_, rfl, hpre, hpost⟩
    rw [exec_pqMergeStep hf (by simp [State.lSize, h]), s.mergeStep_of_list h, hins]
    rfl

/-! ## PQ_EXTRACT_ROOT -/

theorem exec_pqExtractRoot {s : State} (hf : s.fatal = false) (h : s.lSize = 1) :
    exec .pqExtractRoot s = .next s.extractRoot.succeeded := by
  have hc : check .pqExtractRoot s = none := by simp [check, h]
  exact exec_of_check_eq_none hf hc

/-- Settles O16: the two checks in their order, and the extraction from a list of one entry. -/
theorem pqExtractRootTakesTheSingleEntry : Obligations.PqExtractRootTakesTheSingleEntry := by
  refine ⟨fun _ => decode_of_words rfl (.inl rfl), lockedWhenFatal (by simp), fun s hf => ⟨fun h => ?_, fun h => ?_, fun n h => ?_⟩⟩
  · exact exec_of_underflow hf (by simp) (if_pos (congrArg List.length h))
  · have hsize : s.lSize ≠ 0 := Nat.ne_of_gt (Nat.zero_lt_of_lt h)
    exact exec_of_nonfatal_error hf (by simp) ((if_neg hsize).trans (if_pos h)) rfl
  · rw [exec_pqExtractRoot hf (congrArg List.length h), State.extractRoot_of_cons h]
    rfl

/-! ## The merge loop as a number of merges -/

/-- On k + 1 entries the loop is k merges: its fuel does not stop it earlier (42_tree_builder R132). -/
theorem mergeWhile_eq_iterate {k fuel : Nat} {s : State} (h : s.lSize = k + 1) (hfuel : k ≤ fuel) :
    mergeWhile fuel s = State.mergeStep^[k] s := by
  induction fuel generalizing k s with
  | zero => rw [Nat.le_zero.mp hfuel]; rfl
  | succ fuel ih =>
    cases k with
    | zero => rw [mergeWhile, if_neg (by omega)]; rfl
    | succ k =>
      have hone : 1 < s.lSize := by omega
      have hsize := s.lSize_mergeStep hone
      rw [mergeWhile, if_pos hone, ih (by omega) (Nat.le_of_succ_le_succ hfuel), Function.iterate_succ_apply]

theorem buildTree_eq_iterate {s : State} {k : Nat} (h : s.map.length = k + 1) :
    s.buildTree = (State.mergeStep^[k] s.loadLeaves).extractRoot := by
  rw [State.buildTree, mergeWhile_eq_iterate (s.lSize_loadLeaves.trans h) (by omega)]

theorem exec_buildTree {s : State} (hf : s.fatal = false) (hm : s.map ≠ []) :
    exec .buildTree s = .next s.buildTree.succeeded :=
  exec_of_check_eq_none hf (if_neg hm)

theorem exec_buildTree_empty {s : State} (hf : s.fatal = false) (hm : s.map = []) :
    exec .buildTree s = .next { s with list := [], nodes := [], root := none, errCode := .emptyInput, err := true } := by
  have hc : check .buildTree s = some .emptyInput := if_pos hm
  rw [exec_of_check_eq_some hf hc, afterError, if_pos rfl, raised_of_not_isFatal _ rfl]
  rfl

/-! ## The tree BUILD_TREE leaves -/

/-- The node allocated last stands in LIST: so it is after every load of a leaf and after every merge (41_priority_list R117;
42_tree_builder R130). -/
def State.NewestListed (s : State) : Prop := ∃ n : Nat, n ∈ s.list ∧ n + 1 = s.nodeCount

theorem newestListed_loadLeaves {s : State} (hm : s.map ≠ []) : s.loadLeaves.NewestListed := by
  have hcount : 0 < s.loadLeaves.nodeCount := nodeCount_loadLeaves s ▸ List.length_pos_iff.mpr hm
  refine ⟨s.loadLeaves.nodeCount - 1, ?_, Nat.sub_add_cancel hcount⟩
  exact (allListed_loadLeaves s).perm.mem_iff.mpr (List.mem_range.mpr (Nat.sub_lt hcount Nat.one_pos))

/-- A merge appends one record and lists it (42_tree_builder R130). -/
theorem mergeStep_appends {s : State} (h : 1 < s.lSize) :
    (∃ parent, s.mergeStep.nodes = s.nodes ++ [parent]) ∧ s.mergeStep.NewestListed := by
  match hs : s.list with
  | [] => simp [State.lSize, hs] at h
  | [_] => simp [State.lSize, hs] at h
  | l :: r :: rest =>
    rw [s.mergeStep_of_list hs]
    exact ⟨⟨_, rfl⟩, s.nodeCount, mem_insertByKey.mpr (.inl rfl), by simp [State.nodeCount]⟩

/-- k merges on k + 1 entries append k records and leave the newest node alone in LIST (42_tree_builder R132). -/
theorem iterate_mergeStep_single {k : Nat} {s : State} (h : s.lSize = k + 1) (hnew : s.NewestListed) :
    ∃ (n : Nat) (parents : List Node), (State.mergeStep^[k] s).nodes = s.nodes ++ parents ∧ parents.length = k ∧
      (State.mergeStep^[k] s).list = [n] ∧ n + 1 = s.nodeCount + k := by
  induction k generalizing s with
  | zero =>
    obtain ⟨n, hmem, hn⟩ := hnew
    obtain ⟨m, hm⟩ := List.length_eq_one_iff.mp h
    obtain rfl : n = m := by simpa [hm] using hmem
    exact ⟨n, [], (List.append_nil _).symm, rfl, hm, hn⟩
  | succ k ih =>
    have hone : 1 < s.lSize := by omega
    have hsize := s.lSize_mergeStep hone
    obtain ⟨⟨parent, hnodes⟩, hnew'⟩ := mergeStep_appends hone
    obtain ⟨n, parents, hall, hlen, hlist, hn⟩ := ih (by omega) hnew'
    refine ⟨n, parent :: parents, ?_, by simp [hlen], hlist, ?_⟩
    · rw [Function.iterate_succ_apply, hall, hnodes, List.append_assoc, List.singleton_append]
    · rw [hn, State.nodeCount, hnodes, List.length_append, List.length_singleton, ← State.nodeCount]
      omega

/-- The whole effect of BUILD_TREE on a map of k + 1 entries (42_tree_builder R132). -/
theorem buildTree_eq {s : State} {k : Nat} (h : s.map.length = k + 1) :
    ∃ parents : List Node, parents.length = k ∧
      s.buildTree =
        { s with
          nodes := (s.map.map fun e => .leaf e.sym e.cnt) ++ parents, list := [], root := some (2 * k),
          resNode := BitVec.ofNat 9 (2 * k) } := by
  have hm : s.map ≠ [] := List.ne_nil_of_length_eq_add_one h
  obtain ⟨n, parents, hnodes, hlen, hlist, hn⟩ :=
    iterate_mergeStep_single (s.lSize_loadLeaves.trans h) (newestListed_loadLeaves hm)
  obtain rfl : n = 2 * k := by
    rw [nodeCount_loadLeaves, h] at hn
    omega
  refine ⟨parents, hlen, ?_⟩
  rw [s.onlyTree_buildTree, buildTree_eq_iterate h, State.extractRoot_of_cons hlist, hnodes, s.loadLeaves_nodes]

/-- Settles O17: the empty map by the one check, any other by the effect of its merges. -/
theorem buildTreeBuildsOneTree : Obligations.BuildTreeBuildsOneTree := by
  refine ⟨fun _ => decode_of_words rfl (.inl rfl), lockedWhenFatal (by simp), fun s hf => ⟨exec_buildTree_empty hf, fun hm => ?_⟩⟩
  obtain ⟨k, hk⟩ := Nat.exists_eq_add_one.mpr (List.length_pos_iff.mpr hm)
  obtain ⟨parents, hlen, hbuild⟩ := buildTree_eq hk
  have hroot : 2 * s.map.length - 2 = 2 * k := by omega
  refine ⟨(s.map.map fun e => .leaf e.sym e.cnt) ++ parents, ?_, ?_, List.take_left' (List.length_map _)⟩
  · rw [exec_buildTree hf hm, hbuild, hroot]
    rfl
  · rw [List.length_append, List.length_map, hlen]
    omega

/-! ## BUILD_TREE by its step commands -/

/-- A merge neither reads nor writes ERR_CODE. -/
theorem mergeStep_commute_succeeded : Function.Commute State.mergeStep State.succeeded := by
  intro s
  match hs : s.list with
  | [] => simp [State.mergeStep, hs]
  | [_] => simp [State.mergeStep, hs]
  | l :: r :: rest =>
    rw [s.mergeStep_of_list hs, s.succeeded.mergeStep_of_list hs]
    rfl

/-- k PQ_MERGE_STEPs on k + 1 entries and PQ_EXTRACT_ROOT, after a command that succeeded (42_tree_builder R130, R131). -/
theorem execAll_pqMergeStep_pqExtractRoot {k : Nat} {s : State} (hf : s.fatal = false) (h : s.lSize = k + 1) :
    execAll (List.replicate k .pqMergeStep ++ [.pqExtractRoot]) s.succeeded =
      .next (State.mergeStep^[k] s).succeeded.extractRoot.succeeded := by
  induction k generalizing s with
  | zero => exact execAll_cons_of_next (exec_pqExtractRoot (s := s.succeeded) hf h)
  | succ k ih =>
    have hone : 1 < s.lSize := by omega
    have hsize := s.lSize_mergeStep hone
    have hfatal : s.mergeStep.fatal = false := s.onlyTree_mergeStep.fatal.trans hf
    have hmerge : exec .pqMergeStep s.succeeded = .next s.mergeStep.succeeded := by
      rw [exec_pqMergeStep (s := s.succeeded) hf hone, mergeStep_commute_succeeded s]
      rfl
    rw [List.replicate_succ, List.cons_append, execAll_cons_of_next hmerge, ih hfatal (by omega), Function.iterate_succ_apply]

theorem extractRoot_succeeded (s : State) : s.succeeded.extractRoot = s.extractRoot.succeeded := by
  cases h : s.list with
  | nil => rw [State.extractRoot_of_nil h, State.extractRoot_of_nil (s := s.succeeded) h]
  | cons n rest =>
    rw [State.extractRoot_of_cons h, State.extractRoot_of_cons (s := s.succeeded) h]
    rfl

/-- Settles O18: the load leaves one entry per MAP entry, so the loop and the step commands make the same number of merges. -/
theorem buildTreeIsLoadMergeExtract : Obligations.BuildTreeIsLoadMergeExtract := by
  intro s hf hm
  obtain ⟨k, hk⟩ := Nat.exists_eq_add_one.mpr (List.length_pos_iff.mpr hm)
  have hload : exec .pqLoadLeaves s = .next s.loadLeaves.succeeded := exec_of_check_eq_none hf rfl
  have hfatal : s.loadLeaves.fatal = false := s.onlyTree_loadLeaves.fatal.trans hf
  rw [hk, Nat.add_sub_cancel, List.cons_append, execAll_cons_of_next hload,
    execAll_pqMergeStep_pqExtractRoot hfatal (s.lSize_loadLeaves.trans hk), exec_buildTree hf hm, buildTree_eq_iterate hk,
    extractRoot_succeeded]
  rfl

/-! ## What BUILD_TREE and BUILD_CODES depend on -/

/-- LIST, the arena and ROOT are equal, all that the tree builder reads besides MAP (42_tree_builder R134). -/
structure State.SameTree (s t : State) : Prop where
  list : s.list = t.list
  nodes : s.nodes = t.nodes
  root : s.root = t.root

section
variable {s t : State}

theorem State.SameTree.allocInsert (h : s.SameTree t) (r : Node) (rest : List NodeIdx) :
    (s.allocInsert r rest).SameTree (t.allocInsert r rest) where
  list := by
    have hkey : (s.alloc r).key = (t.alloc r).key := State.key_congr (by simp [h.nodes])
    have hcount : s.nodeCount = t.nodeCount := congrArg List.length h.nodes
    simp only [State.allocInsert, hkey, hcount]
  nodes := congrArg (· ++ [r]) h.nodes
  root := h.root

theorem State.SameTree.mergeStep (h : s.SameTree t) : s.mergeStep.SameTree t.mergeStep := by
  match hs : s.list with
  | [] => simpa [State.mergeStep, hs, h.list.symm.trans hs] using h
  | [_] => simpa [State.mergeStep, hs, h.list.symm.trans hs] using h
  | l :: r :: rest =>
    rw [mergeStep_eq_allocInsert hs, mergeStep_eq_allocInsert (h.list.symm.trans hs), State.key_congr h.nodes]
    obtain ⟨hl, hn, hr⟩ := h.allocInsert (.internal (t.key l + t.key r) l r) rest
    exact ⟨hl, hn, hr⟩

theorem State.SameTree.mergeWhile (h : s.SameTree t) (fuel : Nat) : (mergeWhile fuel s).SameTree (mergeWhile fuel t) := by
  induction fuel generalizing s t with
  | zero => exact h
  | succ fuel ih =>
    rw [Machine.mergeWhile, Machine.mergeWhile, State.lSize, State.lSize, h.list]
    split
    · exact ih h.mergeStep
    · exact h

theorem State.SameTree.extractRoot (h : s.SameTree t) : s.extractRoot.SameTree t.extractRoot := by
  cases hs : s.list with
  | nil => rwa [State.extractRoot_of_nil hs, State.extractRoot_of_nil (h.list.symm.trans hs)]
  | cons n rest =>
    rw [State.extractRoot_of_cons hs, State.extractRoot_of_cons (h.list.symm.trans hs)]
    exact ⟨rfl, h.nodes, rfl⟩

theorem sameTree_loadLeaves (hm : s.map = t.map) : s.loadLeaves.SameTree t.loadLeaves := by
  rw [State.loadLeaves, State.loadLeaves, hm]
  refine List.foldl_rel ⟨rfl, rfl, rfl⟩ fun e _ u v h => ?_
  rw [loadLeaf_eq_allocInsert, loadLeaf_eq_allocInsert, h.list]
  exact h.allocInsert _ _

theorem sameTree_buildTree (hm : s.map = t.map) : s.buildTree.SameTree t.buildTree := by
  rw [State.buildTree, State.buildTree, hm]
  exact ((sameTree_loadLeaves hm).mergeWhile _).extractRoot

/-- VISIT reads the arena only. -/
theorem visit_congr (h : s.nodes = t.nodes) : visit s = visit t := by
  funext fuel
  induction fuel with
  | zero => rfl
  | succ fuel ih =>
    funext n path ct
    rw [visit, visit, State.node_congr h, ih]

theorem State.SameTree.codesOfTree (h : s.SameTree t) : s.codesOfTree = t.codesOfTree := by
  have hcount : s.nodeCount = t.nodeCount := congrArg List.length h.nodes
  rw [State.codesOfTree, State.codesOfTree, h.root, State.node_congr h.nodes, visit_congr h.nodes, hcount]

/-- Whatever MAP holds, BUILD_TREE leaves the engine out of the fatal state with a tree that only MAP decides (42_tree_builder R134). -/
theorem exec_buildTree_sameTree (hf : s.fatal = false) (hf' : t.fatal = false) (hm : s.map = t.map) :
    ∃ u v, exec .buildTree s = .next u ∧ exec .buildTree t = .next v ∧ u.fatal = false ∧ v.fatal = false ∧ u.SameTree v := by
  by_cases he : s.map = []
  · exact ⟨_, _, exec_buildTree_empty hf he, exec_buildTree_empty hf' (hm ▸ he), hf, hf', rfl, rfl, rfl⟩
  · obtain ⟨hl, hn, hr⟩ := sameTree_buildTree hm
    exact ⟨_, _, exec_buildTree hf he, exec_buildTree hf' (hm ▸ he), s.onlyTree_buildTree.fatal.trans hf,
      t.onlyTree_buildTree.fatal.trans hf', hl, hn, hr⟩

theorem exec_buildCodes (hf : s.fatal = false) :
    exec .buildCodes s = .next { s with ct := s.codesOfTree, cand := [], errCode := .none } :=
  exec_of_check_eq_none hf rfl

end

/-- Settles O34: equal maps give equal trees, and the table is built from the tree. -/
theorem buildTreeDependsOnTheMapOnly : Obligations.BuildTreeDependsOnTheMapOnly := by
  intro s s' hf hf' hm
  obtain ⟨u, u', hu, hu', hfu, hfu', h⟩ := exec_buildTree_sameTree hf hf' hm
  exact ⟨_, _, (execAll_cons_of_next hu).trans (execAll_cons_of_next (exec_buildCodes hfu)),
    (execAll_cons_of_next hu').trans (execAll_cons_of_next (exec_buildCodes hfu')), h.nodes, h.root, h.list, h.codesOfTree⟩

end Sys2Proof.Machine
end

section
/-! Code tables as lists of symbols with their codes (10_state R37), and the Kraft sum of some codes (43_code_table R145). -/

namespace Sys2Proof.Machine

/-! ## Tables listed by symbol and code -/

/-- The table holds exactly the listed codes, one per listed symbol (10_state R37). -/
structure CodeTable.ListedBy (ct : CodeTable) (ps : List (Sym × Bits)) : Prop where
  distinct : (ps.map Prod.fst).Nodup
  entry_iff : ∀ x c, ct.entry x = some c ↔ (x, c) ∈ ps

/-- The codes of a list recorded one after another. -/
def CodeTable.recordAll (ct : CodeTable) (ps : List (Sym × Bits)) : CodeTable := ps.foldl (fun t p => t.record p.1 p.2) ct

theorem CodeTable.recordAll_append (ct : CodeTable) (ps qs : List (Sym × Bits)) :
    ct.recordAll (ps ++ qs) = (ct.recordAll ps).recordAll qs := List.foldl_append

/-- Codes recorded for different symbols are all kept. -/
theorem CodeTable.listedBy_recordAll {ps : List (Sym × Bits)} (h : (ps.map Prod.fst).Nodup) :
    (CodeTable.empty.recordAll ps).ListedBy ps := by
  refine ⟨h, ?_⟩
  induction ps using List.reverseRecOn with
  | nil => simp [recordAll]
  | append_singleton ps p ih =>
    rw [List.map_append, List.nodup_append] at h
    obtain ⟨hps, -, hfresh⟩ := h
    intro x c
    rw [recordAll_append, recordAll, List.foldl_cons, List.foldl_nil, entry_record, List.mem_append, List.mem_singleton]
    split
    · subst x
      have hnot : (p.1, c) ∉ ps := fun hm => hfresh p.1 (List.mem_map.mpr ⟨_, hm, rfl⟩) p.1 (by simp) rfl
      simp [hnot, Prod.ext_iff, eq_comm]
    · rename_i hx
      simp [ih hps, Prod.ext_iff, hx]

/-- Every symbol value, in order. -/
def allSyms : List Sym := (List.finRange 256).map BitVec.ofFin

theorem nodup_allSyms : allSyms.Nodup :=
  (List.nodup_finRange 256).map fun _ _ h => congrArg BitVec.toFin h

theorem mem_allSyms (x : Sym) : x ∈ allSyms := List.mem_map.mpr ⟨x.toFin, List.mem_finRange _, rfl⟩

/-- The valid entries with their symbols, in the order of the symbols. -/
def CodeTable.entries (ct : CodeTable) : List (Sym × Bits) := allSyms.filterMap fun x => (ct.entry x).map fun c => (x, c)

theorem CodeTable.mem_entries {ct : CodeTable} {x : Sym} {c : Bits} : (x, c) ∈ ct.entries ↔ ct.entry x = some c := by
  simp [entries, mem_allSyms]

theorem CodeTable.nodup_entries (ct : CodeTable) : ct.entries.Nodup := by
  refine List.Nodup.filterMap (fun x y p hx hy => ?_) nodup_allSyms
  simp at hx hy
  grind

theorem CodeTable.codes_eq_entries (ct : CodeTable) : ct.codes = ct.entries.map Prod.snd := by
  have htable : ct.toList = allSyms.map ct.entry := by
    apply List.ext_getElem (by simp [allSyms])
    intro i hi hi'
    simp [allSyms, entry]
  rw [codes, htable, entries, List.filterMap_map, List.map_filterMap]
  simp [Function.comp_def]

theorem CodeTable.ListedBy.codes_perm {ct : CodeTable} {ps : List (Sym × Bits)} (h : ct.ListedBy ps) :
    ct.codes.Perm (ps.map Prod.snd) := by
  rw [ct.codes_eq_entries]
  refine List.Perm.map _ ((List.perm_ext_iff_of_nodup ct.nodup_entries (List.Nodup.of_map _ h.distinct)).mpr fun p => ?_)
  exact mem_entries.trans (h.entry_iff p.1 p.2)

/-! ## Kraft equality -/

/-- The sum of 2^-LEN over codes (43_code_table R145). -/
def kraftSum (codes : List Bits) : ℚ := (codes.map fun c => (1 / 2 : ℚ) ^ c.length).sum

theorem kraftSum_append (cs ds : List Bits) : kraftSum (cs ++ ds) = kraftSum cs + kraftSum ds := by
  simp [kraftSum]

theorem kraftSum_perm {cs ds : List Bits} (h : cs.Perm ds) : kraftSum cs = kraftSum ds := (h.map _).sum_eq

/-- One more bit before every code halves the sum. -/
theorem kraftSum_map_cons (b : Bool) (cs : List Bits) : kraftSum (cs.map (b :: ·)) = 1 / 2 * kraftSum cs := by
  rw [kraftSum, kraftSum, ← List.sum_map_mul_left, List.map_map]
  simp [Function.comp_def, pow_succ, mul_comm]

end Sys2Proof.Machine
end

section
/-! Paths in the arena (10_state R34, R35; 43_code_table R142): a node has at most one parent, so a symbol has at most one path. -/

namespace Sys2Proof.Machine

/-! ## Walks in the arena -/

section
variable {s : State} {n m l r : NodeIdx} {f : Count} {sym : Sym} {c : Bits}

/-- `m` is the left (`false`) or right (`true`) child of the internal node `p`. -/
def State.Child (s : State) (p : NodeIdx) (b : Bool) (m : NodeIdx) : Prop :=
  ∃ f l r, s.nodes[p]? = some (.internal f l r) ∧ m = if b then r else l

theorem State.TreeInv.child_lt (h : s.TreeInv) {p : NodeIdx} {b : Bool} (hc : s.Child p b m) : m < p := by
  obtain ⟨f, l, r, hp, rfl⟩ := hc
  exact kids_lt_of_wellPlaced (h.wellPlaced hp) _ (by cases b <;> simp)

theorem State.Child.parent_lt {p : NodeIdx} {b : Bool} (hc : s.Child p b m) : p < s.nodeCount := by
  obtain ⟨f, l, r, hp, -⟩ := hc
  exact (List.getElem?_eq_some_iff.mp hp).1

theorem mem_children_iff : m ∈ s.children ↔ ∃ p b, s.Child p b m := by
  constructor
  · intro h
    obtain ⟨r, hr, hm⟩ := List.mem_flatMap.mp h
    obtain ⟨p, hp⟩ := List.mem_iff_getElem?.mp hr
    cases r with
    | leaf sym f => simp at hm
    | internal f left right =>
      rcases List.mem_pair.mp hm with rfl | rfl
      · exact ⟨p, false, f, _, right, hp, rfl⟩
      · exact ⟨p, true, f, left, _, hp, rfl⟩
  · rintro ⟨p, b, f, l, r, hp, rfl⟩
    exact List.mem_flatMap.mpr ⟨_, List.mem_of_getElem? hp, by cases b <;> simp⟩

theorem State.TreeInv.nodup_children (h : s.TreeInv) : s.children.Nodup :=
  (List.nodup_append.mp (List.nodup_append.mp h.referencedOnce).1).2.1

/-- Two nodes have no child in common (10_state R35). -/
theorem State.TreeInv.not_child_of_lt (h : s.TreeInv) {p q : NodeIdx} {b b' : Bool} (hlt : p < q) (hp : s.Child p b m) :
    ¬s.Child q b' m := by
  obtain ⟨f, l, r, hp, hm⟩ := hp
  rintro ⟨f', l', r', hq, hm'⟩
  obtain ⟨hp, hpn⟩ := List.getElem?_eq_some_iff.mp hp
  obtain ⟨hq, hqn⟩ := List.getElem?_eq_some_iff.mp hq
  have hapart := List.pairwise_iff_getElem.mp (List.nodup_flatMap.mp h.nodup_children).2 p q hp hq hlt
  rw [Function.onFun, hpn, hqn] at hapart
  exact hapart (a := m) (by cases b <;> simp [hm]) (by cases b' <;> simp [hm'])

/-- A node is the child of at most one node, on one side (10_state R35). -/
theorem State.TreeInv.child_unique (h : s.TreeInv) {p q : NodeIdx} {b b' : Bool} (hp : s.Child p b m) (hq : s.Child q b' m) :
    p = q ∧ b = b' := by
  rcases lt_trichotomy p q with hlt | rfl | hlt
  · exact absurd hq (h.not_child_of_lt hlt hp)
  · obtain ⟨f, l, r, hn, hm⟩ := hp
    obtain ⟨f', l', r', hn', hm'⟩ := hq
    obtain ⟨-, -, hne, -⟩ := of_decide_eq_true (h.wellPlaced hn)
    obtain ⟨-, rfl, rfl⟩ : f = f' ∧ l = l' ∧ r = r' := by simpa using hn.symm.trans hn'
    refine ⟨rfl, ?_⟩
    cases b <;> cases b' <;> simp_all
  · exact absurd hp (h.not_child_of_lt hlt hq)

theorem walk_cons {b : Bool} : s.walk n (b :: c) = some m ↔ ∃ k, s.Child n b k ∧ s.walk k c = some m := by
  constructor
  · intro h
    rw [State.walk] at h
    split at h
    · exact ⟨_, ⟨_, _, _, by assumption, rfl⟩, h⟩
    · simp at h
  · rintro ⟨k, ⟨f, l, r, hn, rfl⟩, hw⟩
    simpa [State.walk, hn] using hw

theorem walk_concat {b : Bool} : s.walk n (c ++ [b]) = some m ↔ ∃ p, s.walk n c = some p ∧ s.Child p b m := by
  induction c generalizing n with
  | nil =>
    rw [List.nil_append, walk_cons]
    simp [State.walk]
  | cons a c ih =>
    simp only [List.cons_append, walk_cons, ih]
    grind

/-- A walk goes to earlier nodes (10_state R34). -/
theorem State.TreeInv.walk_le (h : s.TreeInv) (hw : s.walk n c = some m) : m ≤ n := by
  induction c generalizing n with
  | nil => simp_all [State.walk]
  | cons b c ih =>
    obtain ⟨k, hk, hw⟩ := walk_cons.mp hw
    exact (ih hw).trans (h.child_lt hk).le

theorem State.TreeInv.walk_concat_lt (h : s.TreeInv) {b : Bool} (hw : s.walk n (c ++ [b]) = some m) : m < n := by
  obtain ⟨p, hp, hc⟩ := walk_concat.mp hw
  exact (h.child_lt hc).trans_le (h.walk_le hp)

/-- Only one path leads from one node to another: every node has at most one parent (10_state R35). -/
theorem State.TreeInv.walk_injective (h : s.TreeInv) {d : Bits} (hc : s.walk n c = some m) (hd : s.walk n d = some m) : c = d := by
  induction c using List.reverseRecOn generalizing d m with
  | nil =>
    obtain rfl : n = m := by simpa [State.walk] using hc
    rcases d.eq_nil_or_concat with rfl | ⟨d, b, rfl⟩
    · rfl
    · exact absurd (h.walk_concat_lt (List.concat_eq_append ▸ hd)) (lt_irrefl n)
  | append_singleton c b ih =>
    rcases d.eq_nil_or_concat with rfl | ⟨d, b', rfl⟩
    · obtain rfl : n = m := by simpa [State.walk] using hd
      exact absurd (h.walk_concat_lt hc) (lt_irrefl n)
    · rw [List.concat_eq_append] at hd ⊢
      obtain ⟨p, hp, hpm⟩ := walk_concat.mp hc
      obtain ⟨q, hq, hqm⟩ := walk_concat.mp hd
      obtain ⟨rfl, rfl⟩ := h.child_unique hpm hqm
      rw [ih hp hq]

/-! ## The leaf of a symbol -/

theorem mem_leafSyms_iff : sym ∈ s.leafSyms ↔ ∃ (m : NodeIdx) (f : Count), s.nodes[m]? = some (.leaf sym f) := by
  constructor
  · intro h
    obtain ⟨r, hr, hs⟩ := List.mem_filterMap.mp h
    obtain ⟨m, hm⟩ := List.mem_iff_getElem?.mp hr
    cases r with
    | leaf x f => exact ⟨m, f, by simpa [Option.some_inj.mp hs] using hm⟩
    | internal f l r => simp at hs
  · rintro ⟨m, f, hm⟩
    exact List.mem_filterMap.mpr ⟨_, List.mem_of_getElem? hm, rfl⟩

theorem State.TreeInv.leaf_unique (h : s.TreeInv) {m' : NodeIdx} {f' : Count} (hm : s.nodes[m]? = some (.leaf sym f))
    (hm' : s.nodes[m']? = some (.leaf sym f')) : m = m' := by
  have hapart : ∀ {a b : Nat} {g g' : Count}, s.nodes[a]? = some (.leaf sym g) → s.nodes[b]? = some (.leaf sym g') → ¬a < b := by
    intro a b g g' ha hb hlt
    obtain ⟨ha, hag⟩ := List.getElem?_eq_some_iff.mp ha
    obtain ⟨hb, hbg⟩ := List.getElem?_eq_some_iff.mp hb
    have hpair := List.pairwise_filterMap.mp h.leavesDistinct
    exact List.pairwise_iff_getElem.mp hpair a b ha hb hlt sym (by simp [hag]) sym (by simp [hbg]) rfl
  exact le_antisymm (not_lt.mp (hapart hm' hm)) (not_lt.mp (hapart hm hm'))

/-- A symbol has at most one path: its leaf is unique, and so is the path to it. -/
theorem State.TreeInv.leadsTo_injective (h : s.TreeInv) {d : Bits} (hc : s.LeadsTo n c sym) (hd : s.LeadsTo n d sym) : c = d := by
  obtain ⟨m, f, hwc, hm⟩ := hc
  obtain ⟨m', f', hwd, hm'⟩ := hd
  obtain rfl := h.leaf_unique hm hm'
  exact h.walk_injective hwc hwd

theorem leadsTo_of_leaf (hn : s.nodes[n]? = some (.leaf sym f)) {x : Sym} : s.LeadsTo n c x ↔ c = [] ∧ x = sym := by
  cases c with
  | nil => simp [State.LeadsTo, State.walk, hn, eq_comm]
  | cons b c => simp [State.LeadsTo, State.walk, hn]

theorem leadsTo_of_internal (hn : s.nodes[n]? = some (.internal f l r)) :
    s.LeadsTo n c sym ↔ (∃ d, c = false :: d ∧ s.LeadsTo l d sym) ∨ ∃ d, c = true :: d ∧ s.LeadsTo r d sym := by
  cases c with
  | nil => simp [State.LeadsTo, State.walk, hn]
  | cons b c => cases b <;> simp [State.LeadsTo, State.walk, hn]

end

end Sys2Proof.Machine
end

section
/-! BUILD_CODES (43_code_table R140 to R145): VISIT records the paths from ROOT to the leaves, and in the tree BUILD_TREE leaves they reach
every leaf. -/

namespace Sys2Proof.Machine

/-- Settles O38: VISIT gives out codes that are apart, whatever the arena holds. -/
theorem builtCodesArePrefixFree : Obligations.BuiltCodesArePrefixFree := fun s hf =>
  ⟨_, exec_buildCodes hf, prefixFree_codesOfTree s⟩

/-! ## No root, and a root that is a leaf -/

theorem codesOfTree_of_none {s : State} (hr : s.root = none) : s.codesOfTree = CodeTable.empty := by
  simp [State.codesOfTree, hr]

theorem codesOfTree_of_leaf {s : State} {n : NodeIdx} {sym : Sym} {f : Count} (hr : s.root = some n)
    (hn : s.nodes[n]? = some (.leaf sym f)) : s.codesOfTree = CodeTable.empty.record sym singleLeafCode := by
  simp [State.codesOfTree, hr, s.node_of_getElem? hn]

/-- Settles O19: the two tables that need no VISIT. -/
theorem buildCodesEdgeTables : Obligations.BuildCodesEdgeTables := by
  refine ⟨fun _ => decode_of_words rfl (.inl rfl), lockedWhenFatal (by simp), fun s hf => ⟨fun hr => ?_, fun n sym f hr hn => ?_⟩⟩
  · rw [exec_buildCodes hf, codesOfTree_of_none hr]
  · refine ⟨_, exec_buildCodes hf, ?_, fun x hx => ?_⟩ <;> rw [codesOfTree_of_leaf hr hn]
    · exact CodeTable.entry_record_self _ _ _
    · rw [CodeTable.entry_record_of_ne _ _ hx, CodeTable.entry_empty]

/-! ## VISIT as a list of paths -/

/-- The leaves below `n` with their paths from `n`, in VISIT's order (43_code_table R142); `visit_eq_recordAll` ties it to VISIT. -/
def State.leafPaths (s : State) : Nat → NodeIdx → List (Sym × Bits)
  | 0, _ => []
  | fuel + 1, n =>
    match s.node n with
    | .leaf sym _ => [(sym, [])]
    | .internal _ l r =>
      (s.leafPaths fuel l).map (fun p => (p.1, false :: p.2)) ++ (s.leafPaths fuel r).map (fun p => (p.1, true :: p.2))

section
variable {s : State} {n l r : NodeIdx} {f : Count} {sym : Sym} (fuel : Nat)

theorem leafPaths_of_leaf (h : s.node n = .leaf sym f) : s.leafPaths (fuel + 1) n = [(sym, [])] := by
  simp [State.leafPaths, h]

theorem leafPaths_of_internal (h : s.node n = .internal f l r) :
    s.leafPaths (fuel + 1) n =
      (s.leafPaths fuel l).map (fun p => (p.1, false :: p.2)) ++ (s.leafPaths fuel r).map fun p => (p.1, true :: p.2) := by
  simp [State.leafPaths, h]

end

/-- VISIT records the paths below its node, each behind the path it was called with (43_code_table R142). -/
theorem visit_eq_recordAll (s : State) (fuel : Nat) (n : NodeIdx) (path : Bits) (ct : CodeTable) :
    visit s fuel n path ct = ct.recordAll ((s.leafPaths fuel n).map fun p => (p.1, path ++ p.2)) := by
  induction fuel generalizing n path ct with
  | zero => rfl
  | succ fuel ih =>
    cases hn : s.node n with
    | leaf sym f =>
      rw [visit_of_leaf fuel path ct hn, leafPaths_of_leaf fuel hn]
      simp [CodeTable.recordAll]
    | internal f l r =>
      rw [visit_of_internal fuel path ct hn, leafPaths_of_internal fuel hn, ih l, ih r, ← CodeTable.recordAll_append]
      simp [Function.comp_def]

/-- A node of the arena whose index is below the fuel. Children are earlier nodes (10_state R34), so VISIT never uses such a fuel up. -/
def State.Fuelled (s : State) (fuel : Nat) (n : NodeIdx) : Prop := n < s.nodeCount ∧ n < fuel

theorem State.fuelled_of_getElem? {s : State} {n : NodeIdx} {r : Node} (h : s.nodes[n]? = some r) : s.Fuelled s.nodeCount n :=
  have hlt := (List.getElem?_eq_some_iff.mp h).1
  ⟨hlt, hlt⟩

section
variable {s : State} {n : NodeIdx} {fuel : Nat}

/-- The induction along VISIT: at a leaf, and at an internal node from its children. -/
theorem State.TreeInv.visit_induction (h : s.TreeInv) {P : Nat → NodeIdx → Prop}
    (leaf : ∀ fuel n sym f, s.nodes[n]? = some (.leaf sym f) → P (fuel + 1) n)
    (internal : ∀ fuel n f l r, s.nodes[n]? = some (.internal f l r) → s.Fuelled fuel l → s.Fuelled fuel r → P fuel l → P fuel r →
      P (fuel + 1) n) (hn : s.Fuelled fuel n) : P fuel n := by
  obtain ⟨hlt, hfuel⟩ := hn
  induction fuel generalizing n with
  | zero => simp at hfuel
  | succ fuel ih =>
    have hget := s.getElem?_of_lt hlt
    cases hr : s.node n with
    | leaf sym f => exact leaf fuel n sym f (hr ▸ hget)
    | internal f l r =>
      have hkids := kids_lt_of_wellPlaced (h.wellPlaced (hr ▸ hget))
      have hchild : ∀ k ∈ [l, r], s.Fuelled fuel k := fun k hk =>
        ⟨(hkids k hk).trans hlt, (hkids k hk).trans_le (Nat.le_of_lt_succ hfuel)⟩
      obtain ⟨hl, hr'⟩ : s.Fuelled fuel l ∧ s.Fuelled fuel r := by simpa using hchild
      exact internal fuel n f l r (hr ▸ hget) hl hr' (ih hl.1 hl.2) (ih hr'.1 hr'.2)

theorem mem_leafPaths (h : s.TreeInv) (hn : s.Fuelled fuel n) (x : Sym) (c : Bits) :
    (x, c) ∈ s.leafPaths fuel n ↔ s.LeadsTo n c x := by
  refine h.visit_induction (P := fun fuel n => ∀ c, (x, c) ∈ s.leafPaths fuel n ↔ s.LeadsTo n c x) ?_ ?_ hn c
  · intro fuel n sym f hget c
    rw [leafPaths_of_leaf fuel (s.node_of_getElem? hget), leadsTo_of_leaf hget]
    simp [and_comm]
  · intro fuel n f l r hget _ _ ihl ihr c
    rw [leafPaths_of_internal fuel (s.node_of_getElem? hget), leadsTo_of_internal hget]
    simp [ihl, ihr, and_comm, eq_comm]

/-- No symbol is listed twice: the paths to one leaf would branch (43_code_table R140, corner cases). -/
theorem nodup_leafPaths (h : s.TreeInv) (hn : s.Fuelled fuel n) : ((s.leafPaths fuel n).map Prod.fst).Nodup := by
  refine h.visit_induction (P := fun fuel n => ((s.leafPaths fuel n).map Prod.fst).Nodup) ?_ ?_ hn
  · intro fuel n sym f hget
    simp [leafPaths_of_leaf fuel (s.node_of_getElem? hget)]
  · intro fuel n f l r hget hl hr ihl ihr
    rw [leafPaths_of_internal fuel (s.node_of_getElem? hget), List.map_append, List.map_map, List.map_map]
    refine List.nodup_append.mpr ⟨ihl, ihr, ?_⟩
    rintro x hx _ hy rfl
    obtain ⟨⟨_, c⟩, hc, rfl⟩ := List.mem_map.mp hx
    obtain ⟨⟨_, d⟩, hd, rfl⟩ := List.mem_map.mp hy
    have hleft := (leadsTo_of_internal hget).mpr (.inl ⟨c, rfl, (mem_leafPaths h hl _ c).mp hc⟩)
    have hright := (leadsTo_of_internal hget).mpr (.inr ⟨d, rfl, (mem_leafPaths h hr _ d).mp hd⟩)
    simpa using h.leadsTo_injective hleft hright

/-- A full tree meets Kraft equality: each branch has half (43_code_table R145). -/
theorem kraftSum_leafPaths (h : s.TreeInv) (hn : s.Fuelled fuel n) : kraftSum ((s.leafPaths fuel n).map Prod.snd) = 1 := by
  refine h.visit_induction (P := fun fuel n => kraftSum ((s.leafPaths fuel n).map Prod.snd) = 1) ?_ ?_ hn
  · intro fuel n sym f hget
    simp [leafPaths_of_leaf fuel (s.node_of_getElem? hget), kraftSum]
  · intro fuel n f l r hget _ _ ihl ihr
    have hbranch : ∀ (b : Bool) (ps : List (Sym × Bits)),
        (ps.map fun p => (p.1, b :: p.2)).map Prod.snd = (ps.map Prod.snd).map (b :: ·) := by simp
    rw [leafPaths_of_internal fuel (s.node_of_getElem? hget), List.map_append, hbranch, hbranch, kraftSum_append, kraftSum_map_cons,
      kraftSum_map_cons, ihl, ihr]
    norm_num

end

/-! ## A root that is an internal node -/

theorem listedBy_codesOfTree {s : State} {n l r : NodeIdx} {f : Count} (h : s.TreeInv) (hr : s.root = some n)
    (hn : s.nodes[n]? = some (.internal f l r)) : s.codesOfTree.ListedBy (s.leafPaths s.nodeCount n) := by
  have hvisit : s.codesOfTree = visit s s.nodeCount n [] CodeTable.empty := by
    simp [State.codesOfTree, hr, s.node_of_getElem? hn]
  have hpaths : s.codesOfTree = CodeTable.empty.recordAll (s.leafPaths s.nodeCount n) := by
    simpa using hvisit.trans (visit_eq_recordAll s _ n [] _)
  exact hpaths ▸ CodeTable.listedBy_recordAll (nodup_leafPaths h (State.fuelled_of_getElem? hn))

/-- Settles O20: the table is listed by the paths VISIT records, and these are the paths that lead to leaves. -/
theorem buildCodesRecordsThePaths : Obligations.BuildCodesRecordsThePaths := by
  intro s n l r f hf h hr hn
  exact ⟨_, exec_buildCodes hf, fun sym c =>
    ((listedBy_codesOfTree h hr hn).entry_iff sym c).trans (mem_leafPaths h (State.fuelled_of_getElem? hn) sym c)⟩

/-! ## The tree BUILD_TREE leaves is one tree -/

section
variable {s : State} {n : NodeIdx}

/-- LIST is empty, ROOT is `n`, and there is one leaf more than internal nodes: the arena is ROOT's tree and nothing else. -/
structure State.OneTree (s : State) (n : NodeIdx) : Prop where
  treeInv : s.TreeInv
  list : s.list = []
  root : s.root = some n
  leaves : s.leafSyms.length = s.internalCount + 1

/-- Every node but ROOT has a parent: there are as many references as nodes, all different (10_state R35). -/
theorem State.OneTree.root_or_child (h : s.OneTree n) {m : NodeIdx} (hm : m < s.nodeCount) : m = n ∨ ∃ p b, s.Child p b m := by
  have hsub : s.references.Subperm (List.range s.nodeCount) :=
    h.treeInv.referencedOnce.subperm fun k hk => List.mem_range.mpr (h.treeInv.referencesAllocated k hk)
  have hlen : (List.range s.nodeCount).length ≤ s.references.length := by
    have hcount := nodeCount_eq_leaves_add_internals s
    have hleaves := h.leaves
    simp only [State.references, h.list, h.root, List.length_append, length_children, List.length_range, List.length_nil,
      Option.toList_some, List.length_singleton]
    omega
  have hmem := (hsub.perm_of_length_le hlen).mem_iff.mpr (List.mem_range.mpr hm)
  have hmem' : m ∈ s.children ∨ m = n := by simpa [State.references, h.list, h.root] using hmem
  exact hmem'.symm.imp id mem_children_iff.mp

/-- Every node is reached from ROOT: its parent is, and stands later in the arena. -/
theorem State.OneTree.exists_walk (h : s.OneTree n) {m : NodeIdx} (hm : m < s.nodeCount) : ∃ c, s.walk n c = some m := by
  rcases h.root_or_child hm with rfl | ⟨p, b, hc⟩
  · exact ⟨[], rfl⟩
  · have hlt := h.treeInv.child_lt hc
    obtain ⟨c, hw⟩ := h.exists_walk hc.parent_lt
    exact ⟨c ++ [b], walk_concat.mpr ⟨p, hw, hc⟩⟩
termination_by s.nodeCount - m
decreasing_by exact Nat.sub_lt_sub_left hm hlt

/-- In a tree of several nodes some other node is reached from ROOT, so ROOT is an internal node. -/
theorem State.OneTree.root_internal (h : s.OneTree n) (hc : 1 < s.nodeCount) :
    ∃ f l r, s.nodes[n]? = some (.internal f l r) := by
  obtain ⟨m, hm, hne⟩ : ∃ m, m < s.nodeCount ∧ m ≠ n := by
    by_cases hn : n = 0
    · exact ⟨1, hc, by simp [hn]⟩
    · exact ⟨0, Nat.zero_lt_of_lt hc, Ne.symm hn⟩
  obtain ⟨c, hw⟩ := h.exists_walk hm
  cases c with
  | nil => exact absurd (by simpa [State.walk] using hw.symm) hne
  | cons b c =>
    obtain ⟨k, ⟨f, l, r, hget, -⟩, -⟩ := walk_cons.mp hw
    exact ⟨f, l, r, hget⟩

/-- The symbols with a path from ROOT are those of the leaves (43_code_table R144). -/
theorem State.OneTree.leadsTo_iff (h : s.OneTree n) {sym : Sym} : (∃ c, s.LeadsTo n c sym) ↔ sym ∈ s.leafSyms := by
  rw [mem_leafSyms_iff]
  constructor
  · rintro ⟨c, m, f, -, hm⟩
    exact ⟨m, f, hm⟩
  · rintro ⟨m, f, hm⟩
    obtain ⟨c, hw⟩ := h.exists_walk (List.getElem?_eq_some_iff.mp hm).1
    exact ⟨c, m, f, hw, hm⟩

theorem State.OneTree.leafPaths_perm (h : s.OneTree n) (hn : s.Fuelled s.nodeCount n) :
    ((s.leafPaths s.nodeCount n).map Prod.fst).Perm s.leafSyms := by
  refine (List.perm_ext_iff_of_nodup (nodup_leafPaths h.treeInv hn) h.treeInv.leavesDistinct).mpr fun sym => ?_
  simp [mem_leafPaths h.treeInv hn, ← h.leadsTo_iff]

end

/-! ## BUILD_TREE, then BUILD_CODES -/

theorem leafSyms_mergeStep (s : State) : s.mergeStep.leafSyms = s.leafSyms := by
  match hs : s.list with
  | [] => simp [State.mergeStep, hs]
  | [_] => simp [State.mergeStep, hs]
  | l :: r :: rest => simp [s.mergeStep_of_list hs, State.leafSyms]

theorem leafSyms_mergeWhile (fuel : Nat) (s : State) : (mergeWhile fuel s).leafSyms = s.leafSyms := by
  induction fuel generalizing s with
  | zero => rfl
  | succ fuel ih =>
    rw [mergeWhile]
    split
    · rw [ih, leafSyms_mergeStep]
    · rfl

theorem leafSyms_extractRoot (s : State) : s.extractRoot.leafSyms = s.leafSyms := by
  cases hs : s.list with
  | nil => rw [State.extractRoot_of_nil hs]
  | cons n rest => rw [State.extractRoot_of_cons hs]; rfl

/-- The leaves of the built tree are MAP's entries (42_tree_builder R132). -/
theorem leafSyms_buildTree (s : State) : s.buildTree.leafSyms = s.keys := by
  rw [State.buildTree, leafSyms_extractRoot, leafSyms_mergeWhile, State.leafSyms, s.loadLeaves_nodes, List.filterMap_map, State.keys,
    ← List.filterMap_eq_map]
  rfl

theorem treeInv_buildTree {s : State} (hi : s.MapInv) : s.buildTree.TreeInv :=
  treeInv_extractRoot (treeInv_mergeWhile (treeInv_loadLeaves hi))

theorem nodeCount_buildTree {s : State} {k : Nat} (hk : s.map.length = k + 1) : s.buildTree.nodeCount = k + 1 + k := by
  obtain ⟨parents, hlen, hbuild⟩ := buildTree_eq hk
  simp [State.nodeCount, hbuild, hlen, hk]

theorem oneTree_buildTree {s : State} (hi : s.MapInv) {k : Nat} (hk : s.map.length = k + 1) : s.buildTree.OneTree (2 * k) := by
  obtain ⟨parents, -, hbuild⟩ := buildTree_eq hk
  refine ⟨treeInv_buildTree hi, by rw [hbuild], by rw [hbuild], ?_⟩
  have hcount := nodeCount_buildTree hk
  have hleaves : s.buildTree.leafSyms.length = k + 1 := by simp [leafSyms_buildTree, State.keys, hk]
  have := nodeCount_eq_leaves_add_internals s.buildTree
  omega

/-- The table of a tree built from MAP: one code for each of MAP's symbols, with the Kraft sum of a full tree, or of the one code "0"
(43_code_table R144, R145). -/
theorem codesOfTree_buildTree {s : State} (hi : s.MapInv) (hm : s.map ≠ []) :
    ∃ ps, s.buildTree.codesOfTree.ListedBy ps ∧ (ps.map Prod.fst).Perm s.keys ∧
      kraftSum (ps.map Prod.snd) = if s.map.length = 1 then 1 / 2 else 1 := by
  obtain ⟨k, hk⟩ := Nat.exists_eq_add_one.mpr (List.length_pos_iff.mpr hm)
  have htree := oneTree_buildTree hi hk
  cases k with
  | zero =>
    obtain ⟨e, he⟩ := List.length_eq_one_iff.mp hk
    obtain ⟨parents, -, hbuild⟩ := buildTree_eq hk
    have hleaf : s.buildTree.nodes[0]? = some (.leaf e.sym e.cnt) := by simp [hbuild, he]
    refine ⟨[(e.sym, singleLeafCode)], ?_, by simp [State.keys, he], by simp [kraftSum, singleLeafCode, hk]⟩
    rw [codesOfTree_of_leaf htree.root hleaf]
    exact CodeTable.listedBy_recordAll (ps := [(e.sym, singleLeafCode)]) (List.nodup_singleton _)
  | succ k =>
    have hcount : 1 < s.buildTree.nodeCount := by rw [nodeCount_buildTree hk]; omega
    obtain ⟨f, l, r, hroot⟩ := htree.root_internal hcount
    have hfuel := State.fuelled_of_getElem? hroot
    refine ⟨_, listedBy_codesOfTree htree.treeInv htree.root hroot, leafSyms_buildTree s ▸ htree.leafPaths_perm hfuel, ?_⟩
    rw [kraftSum_leafPaths htree.treeInv hfuel, if_neg (by omega)]

/-- BUILD_TREE and BUILD_CODES on a map that is not empty leave the table of the built tree (42_tree_builder R132; 43_code_table R140). -/
theorem execAll_buildTree_buildCodes {s : State} (hf : s.fatal = false) (hm : s.map ≠ []) :
    ∃ t, execAll [.buildTree, .buildCodes] s = .next t ∧ t.ct = s.buildTree.codesOfTree := by
  have hfatal : s.buildTree.succeeded.fatal = false := s.onlyTree_buildTree.fatal.trans hf
  have hsame : s.buildTree.succeeded.SameTree s.buildTree := ⟨rfl, rfl, rfl⟩
  exact ⟨_, (execAll_cons_of_next (exec_buildTree hf hm)).trans (execAll_cons_of_next (exec_buildCodes hfatal)), hsame.codesOfTree⟩

/-- Settles O36: the listed symbols are MAP's keys, in another order. -/
theorem everySymbolOfTheMapGetsACode : Obligations.EverySymbolOfTheMapGetsACode := by
  intro s hf hi hm
  obtain ⟨t, ht, hct⟩ := execAll_buildTree_buildCodes hf hm
  obtain ⟨ps, hps, hkeys, -⟩ := codesOfTree_buildTree hi hm
  rw [← hct] at hps
  refine ⟨t, ht, ?_, fun sym => ?_⟩
  · calc t.ct.validCount = (ps.map Prod.fst).length := by simp [validCount_eq_length_codes, hps.codes_perm.length_eq]
      _ = s.map.length := by simp [hkeys.length_eq, State.keys]
  · simp [hps.entry_iff, ← hkeys.mem_iff]

/-- Settles O37: the codes are the listed ones, whose sum is that of a full tree or of the one code "0". -/
theorem codeLengthsMeetKraftEquality : Obligations.CodeLengthsMeetKraftEquality := by
  intro s hf hi hm
  obtain ⟨t, ht, hct⟩ := execAll_buildTree_buildCodes hf hm
  obtain ⟨ps, hps, -, hsum⟩ := codesOfTree_buildTree hi hm
  rw [← hct] at hps
  exact ⟨t, ht, (kraftSum_perm hps.codes_perm).trans hsum⟩

end Sys2Proof.Machine
end

section
/-! The codec's commands (44_codec R150 to R155): ENCODE, DEC_BIT, DEC_END, DEC_CLEAR. -/

namespace Sys2Proof.Machine

section
variable {s : State} {sym : Sym} {b : Bool}

/-! ## ENCODE -/

theorem exec_encode {c : Bits} (hf : s.fatal = false) (hc : s.ct.entry sym = some c) :
    exec (.encode sym) s = .next { s with resLen := BitVec.ofNat 8 c.length, resCode := packBits c, errCode := .none } := by
  have hcheck : check (.encode sym) s = none := if_neg (by simp [hc])
  rw [exec_of_check_eq_none hf hcheck, effect, hc]
  rfl

theorem exec_encode_miss (hf : s.fatal = false) (hc : s.ct.entry sym = none) :
    exec (.encode sym) s = .next { s with errCode := .lookupMiss, err := true } :=
  exec_of_nonfatal_error hf (by simp) (if_pos hc) rfl

/-! ## DEC_BIT -/

theorem exec_decBit_emit (hf : s.fatal = false) (hm : matchCode s.ct (s.cand ++ [b]) = some sym) :
    exec (.decBit b) s = .next { s with cand := [], resSym := sym, resValid := true, errCode := .none } := by
  rw [exec_of_check_eq_none hf rfl, effect, hm]
  rfl

theorem exec_decBit_extend (hf : s.fatal = false) (hm : matchCode s.ct (s.cand ++ [b]) = none) :
    exec (.decBit b) s = .next { s with cand := s.cand ++ [b], resValid := false, errCode := .none } := by
  rw [exec_of_check_eq_none hf rfl, effect, hm]
  rfl

/-! ## DEC_END and DEC_CLEAR -/

theorem exec_decEnd (hf : s.fatal = false) (hc : s.cand = []) : exec .decEnd s = .next { s with errCode := .none } :=
  exec_of_check_eq_none hf (if_pos hc)

theorem exec_decEnd_open (hf : s.fatal = false) (hc : s.cand ≠ []) :
    exec .decEnd s = .next { s with errCode := .decodeExhaustion, err := true } :=
  exec_of_nonfatal_error hf (by simp) (if_neg hc) rfl

theorem exec_decClear (hf : s.fatal = false) :
    exec .decClear s = .next { s with cand := [], resValid := false, errCode := .none } :=
  exec_of_check_eq_none hf rfl

end

/-- Settles O21: the operand by its form's bound, and the two answers of the lookup. -/
theorem encodeLooksUpTheCode : Obligations.EncodeLooksUpTheCode := by
  refine ⟨fun _ => decode_of_words rfl (.inr rfl), fun _ => lockedWhenFatal (by simp), fun arg harg => ⟨?_, rfl⟩, fun sym s hf => ?_⟩
  · have hillegal : ¬Form.sym.legal arg = true := legal_sym.not.mpr (by omega)
    exact decode_eq_illegalOperand (i := .encode 0) (Bool.eq_false_of_not_eq_true hillegal)
  · exact ⟨exec_encode_miss hf, fun c hc => ⟨packBits c, exec_encode hf hc, getLsbD_packBits c⟩⟩

/-- Settles O22: the operand by its form's bound, and the two answers of MATCH. -/
theorem decBitExtendsOrEmits : Obligations.DecBitExtendsOrEmits := by
  refine ⟨fun b => ?_, fun _ => lockedWhenFatal (by simp), fun arg harg => ⟨?_, rfl⟩, fun b s hf => ⟨fun hnone => ?_, ?_⟩⟩
  · exact decode_of_words rfl (.inr (by cases b <;> rfl))
  · have hillegal : ¬Form.bit.legal arg = true := legal_bit.not.mpr (by omega)
    exact decode_eq_illegalOperand (i := .decBit false) (Bool.eq_false_of_not_eq_true hillegal)
  · exact exec_decBit_extend hf (matchCode_eq_none.mpr hnone)
  · exact fun sym hsym huniq => exec_decBit_emit hf (matchCode_eq_some hsym huniq)

/-- Settles O23: DEC_END's one check, besides the fatal state, is that of the candidate. -/
theorem decEndReportsAnOpenCandidate : Obligations.DecEndReportsAnOpenCandidate :=
  ⟨fun _ => decode_of_words rfl (.inl rfl), lockedWhenFatal (by simp), fun _ hf => ⟨exec_decEnd hf, exec_decEnd_open hf⟩⟩

/-- Settles O24: DEC_CLEAR checks nothing but the fatal state. -/
theorem decClearDropsTheCandidate : Obligations.DecClearDropsTheCandidate :=
  ⟨fun _ => decode_of_words rfl (.inl rfl), lockedWhenFatal (by simp), fun _ => exec_decClear⟩

end Sys2Proof.Machine
end

section
/-! Whole-sequence encode and decode (44_codec R151, R157): the codes of a table one after another, and the symbols read back from
them. -/

namespace Sys2Proof.Machine

/-- The codes of some symbols one after another; a symbol without a code adds nothing (44_codec R151). -/
def CodeTable.stream (ct : CodeTable) (syms : List Sym) : Bits := syms.flatMap fun x => (ct.entry x).getD []

theorem CodeTable.stream_cons {ct : CodeTable} {x : Sym} {c : Bits} (hx : ct.entry x = some c) (xs : List Sym) :
    ct.stream (x :: xs) = c ++ ct.stream xs := by
  simp [stream, hx]

/-- What the codec's commands work on: the engine is not fatal and holds this table and this candidate. -/
structure State.Coding (s : State) (ct : CodeTable) (cand : Bits) : Prop where
  fatal : s.fatal = false
  ct : s.ct = ct
  cand : s.cand = cand

section
variable {s : State} {ct : CodeTable} {cand : Bits} {x : Sym}

/-! ## Encode -/

/-- After ENCODE the host reads the code back from RES_LEN and RES_CODE (10_state R19, R20). -/
theorem encodeStream_cons {c : Bits} (h : s.Coding ct cand) (hc : ct.entry x = some c) (hlen : c.length ≤ Config.codeMax)
    (xs : List Sym) :
    ∃ t, t.Coding ct cand ∧ encodeStream (x :: xs) s = (encodeStream xs t).map fun p => (c ++ p.1, p.2) := by
  have hlen' : c.length < 256 := Nat.lt_succ_of_le hlen
  obtain ⟨hf, rfl, rfl⟩ := h
  refine ⟨{ s with resLen := BitVec.ofNat 8 c.length, resCode := packBits c, errCode := .none }, ⟨hf, rfl, rfl⟩, ?_⟩
  simp [encodeStream, exec_encode hf hc, State.resultCode, Nat.mod_eq_of_lt hlen', map_getLsbD_packBits c hlen'.le]

theorem encodeStream_cons_miss (h : s.Coding ct cand) (hx : ct.entry x = none) (xs : List Sym) :
    encodeStream (x :: xs) s = none := by
  obtain ⟨hf, rfl, -⟩ := h
  simp [encodeStream, exec_encode_miss hf hx]

/-- Symbols that all have codes are encoded as the table's stream of them. -/
theorem encodeStream_eq_stream {syms : List Sym} (h : s.Coding ct cand) (hfit : ct.Fit) (hcodes : ∀ x ∈ syms, ct.entry x ≠ none) :
    ∃ u, u.Coding ct cand ∧ encodeStream syms s = some (ct.stream syms, u) := by
  induction syms generalizing s with
  | nil => exact ⟨s, h, rfl⟩
  | cons x xs ih =>
    obtain ⟨hx, hxs⟩ := List.forall_mem_cons.mp hcodes
    obtain ⟨c, hc⟩ := Option.ne_none_iff_exists'.mp hx
    obtain ⟨t, ht, hcons⟩ := encodeStream_cons h hc (hfit c (CodeTable.mem_codes.mpr ⟨x, hc⟩)) xs
    obtain ⟨u, hu, hrest⟩ := ih ht hxs
    exact ⟨u, hu, by rw [hcons, hrest, CodeTable.stream_cons hc]; rfl⟩

/-- The encode fails at the first symbol without a code, however many codes came before it. -/
theorem encodeStream_eq_none {syms : List Sym} (h : s.Coding ct cand) (hfit : ct.Fit) (hmiss : ∃ x ∈ syms, ct.entry x = none) :
    encodeStream syms s = none := by
  induction syms generalizing s with
  | nil => simp at hmiss
  | cons x xs ih =>
    cases hc : ct.entry x with
    | none => exact encodeStream_cons_miss h hc xs
    | some c =>
      obtain ⟨t, ht, hcons⟩ := encodeStream_cons h hc (hfit c (CodeTable.mem_codes.mpr ⟨x, hc⟩)) xs
      rw [hcons, ih ht (by simpa [hc] using hmiss)]
      rfl

/-! ## Decode -/

/-- A candidate that is a beginning of a code and not the whole of it is no code (44_codec R152; 43_code_table R143). -/
theorem matchCode_of_proper_prefix (hpf : ct.PrefixFree) {c rest : Bits} (hx : ct.entry x = some (c ++ rest)) (hne : rest ≠ []) :
    matchCode ct c = none := by
  refine matchCode_eq_none.mpr fun y hy => ?_
  by_cases hyx : y = x
  · subst hyx
    exact hne (by simpa [hx] using hy)
  · exact CodeTable.prefixFree_iff.mp hpf y x _ _ hyx hy hx (List.prefix_append _ _)

/-- Where `PrefixFree` holds, MATCH finds the symbol of each code (44_codec R152; 43_code_table R143). -/
theorem matchCode_entry (hpf : ct.PrefixFree) {c : Bits} (hx : ct.entry x = some c) : matchCode ct c = some x :=
  matchCode_eq_some hx fun y hy => by_contra fun hyx => CodeTable.prefixFree_iff.mp hpf y x c c hyx hy hx List.prefix_rfl

theorem decodeBits_cons_emit {b : Bool} (h : s.Coding ct cand) (hm : matchCode ct (cand ++ [b]) = some x) (bs : Bits) :
    ∃ t, t.Coding ct [] ∧ decodeBits (b :: bs) s = (decodeBits bs t).map fun p => (x :: p.1, p.2) := by
  obtain ⟨hf, rfl, rfl⟩ := h
  refine ⟨{ s with cand := [], resSym := x, resValid := true, errCode := .none }, ⟨hf, rfl, rfl⟩, ?_⟩
  simp [decodeBits, exec_decBit_emit hf hm, State.emitted]

theorem decodeBits_cons_extend {b : Bool} (h : s.Coding ct cand) (hm : matchCode ct (cand ++ [b]) = none) (bs : Bits) :
    ∃ t, t.Coding ct (cand ++ [b]) ∧ decodeBits (b :: bs) s = decodeBits bs t := by
  obtain ⟨hf, rfl, rfl⟩ := h
  refine ⟨{ s with cand := s.cand ++ [b], resValid := false, errCode := .none }, ⟨hf, rfl, rfl⟩, ?_⟩
  simp [decodeBits, exec_decBit_extend hf hm, State.emitted]

/-- The bits that are left of a code extend the candidate until the last one emits the code's symbol (44_codec R153). -/
theorem decodeBits_rest_of_code {rest : Bits} (h : s.Coding ct cand) (hpf : ct.PrefixFree) (hx : ct.entry x = some (cand ++ rest))
    (hne : rest ≠ []) (bs : Bits) :
    ∃ t, t.Coding ct [] ∧ decodeBits (rest ++ bs) s = (decodeBits bs t).map fun p => (x :: p.1, p.2) := by
  induction rest generalizing s cand with
  | nil => exact absurd rfl hne
  | cons b rest ih =>
    by_cases hlast : rest = []
    · subst hlast
      exact decodeBits_cons_emit h (matchCode_entry hpf hx) bs
    · rw [List.append_cons] at hx
      obtain ⟨t, ht, hbit⟩ := decodeBits_cons_extend h (matchCode_of_proper_prefix hpf hx hlast) (rest ++ bs)
      obtain ⟨u, hu, hrest⟩ := ih ht hx hlast
      exact ⟨u, hu, hbit.trans hrest⟩

/-- Code after code, each from an empty candidate, gives the symbols back (44_codec R157). -/
theorem decodeBits_stream {syms : List Sym} (h : s.Coding ct []) (hpf : ct.PrefixFree) (hne : ∀ c ∈ ct.codes, c ≠ [])
    (hcodes : ∀ x ∈ syms, ct.entry x ≠ none) : ∃ t, t.Coding ct [] ∧ decodeBits (ct.stream syms) s = some (syms, t) := by
  induction syms generalizing s with
  | nil => exact ⟨s, h, rfl⟩
  | cons x xs ih =>
    obtain ⟨hx, hxs⟩ := List.forall_mem_cons.mp hcodes
    obtain ⟨c, hc⟩ := Option.ne_none_iff_exists'.mp hx
    obtain ⟨t, ht, hcode⟩ := decodeBits_rest_of_code h hpf hc (hne c (CodeTable.mem_codes.mpr ⟨x, hc⟩)) (ct.stream xs)
    obtain ⟨u, hu, hrest⟩ := ih ht hxs
    exact ⟨u, hu, by rw [CodeTable.stream_cons hc, hcode, hrest]; rfl⟩

/-- DEC_CLEAR lets the decode begin at any candidate, and after the last code DEC_END finds none (44_codec R154, R155, R157). -/
theorem decodeStream_stream {syms : List Sym} (h : s.Coding ct cand) (hpf : ct.PrefixFree) (hne : ∀ c ∈ ct.codes, c ≠ [])
    (hcodes : ∀ x ∈ syms, ct.entry x ≠ none) : ∃ v, decodeStream (ct.stream syms) s = some (syms, v) ∧ v.errCode = .none := by
  obtain ⟨hf, hct, -⟩ := h
  obtain ⟨u, hu, hbits⟩ :=
    decodeBits_stream (s := { s with cand := [], resValid := false, errCode := .none }) ⟨hf, hct, rfl⟩ hpf hne hcodes
  refine ⟨{ u with errCode := .none }, ?_, rfl⟩
  simp [decodeStream, exec_decClear hf, hbits, exec_decEnd hu.fatal hu.cand]

/-! ## Encode, then decode -/

/-- What 10_state R37 says of the valid codes: none begins another, none is empty, none is too long. -/
structure CodeTable.Valid (ct : CodeTable) : Prop where
  prefixFree : ct.PrefixFree
  nonempty : ∀ c ∈ ct.codes, c ≠ []
  fit : ct.Fit

/-- The round trip on a valid table (44_codec R157). -/
theorem decodeStream_encodeStream {syms : List Sym} (h : s.Coding ct cand) (hct : ct.Valid) (hcodes : ∀ x ∈ syms, ct.entry x ≠ none) :
    ∃ bits u v, encodeStream syms s = some (bits, u) ∧ decodeStream bits u = some (syms, v) ∧ v.errCode = .none := by
  obtain ⟨u, hu, hencode⟩ := encodeStream_eq_stream h hct.fit hcodes
  obtain ⟨v, hdecode, herr⟩ := decodeStream_stream hu hct.prefixFree hct.nonempty hcodes
  exact ⟨_, u, v, hencode, hdecode, herr⟩

end

/-- Settles O39: ENCODE keeps the table, so each symbol adds its code of the first state, or ends the encode. -/
theorem encodeStreamConcatenatesTheCodes : Obligations.EncodeStreamConcatenatesTheCodes := by
  intro s syms hf hfit
  have h : s.Coding s.ct s.cand := ⟨hf, rfl, rfl⟩
  refine ⟨fun hcodes => ?_, encodeStream_eq_none h hfit⟩
  obtain ⟨u, -, hencode⟩ := encodeStream_eq_stream h hfit hcodes
  exact ⟨u, hencode⟩

/-- Settles O40: the hypotheses are those of a valid table. -/
theorem decodeInvertsEncode : Obligations.DecodeInvertsEncode := by
  intro s syms hf hpf hc hcodes
  have hct : s.ct.Valid := ⟨hpf, fun c hcc => (hc c hcc).1, fun c hcc => (hc c hcc).2⟩
  obtain ⟨bits, u, v, hencode, hdecode, -⟩ := decodeStream_encodeStream ⟨hf, rfl, rfl⟩ hct hcodes
  exact ⟨bits, u, v, hencode, hdecode⟩

/-! ## The whole pipeline -/

theorem execAll_append_of_next {is js : List Instr} {s t : State} (h : execAll is s = .next t) :
    execAll (is ++ js) s = execAll js t := by
  induction is generalizing s with
  | nil =>
    obtain rfl : s = t := by simpa [execAll] using h
    rfl
  | cons i is ih =>
    obtain ⟨u, hu⟩ := exec_answers_next i s
    rw [execAll_cons_of_next hu] at h
    rw [List.cons_append, execAll_cons_of_next hu, ih h]

/-- A table built from a well-formed tree is valid (43_code_table R143; 00_scope R7). -/
theorem valid_codesOfTree {s : State} (h : s.TreeInv) : s.codesOfTree.Valid where
  prefixFree := prefixFree_codesOfTree s
  nonempty c hc := by
    obtain ⟨x, hx⟩ := CodeTable.mem_codes.mp hc
    exact ne_nil_of_entry_codesOfTree hx
  fit := fit_codesOfTree h

/-- BUILD_TREE and BUILD_CODES leave the engine ready to code with the table of the built tree, which has a code for each of MAP's
symbols (42_tree_builder R132; 43_code_table R140, R144). -/
theorem coding_of_buildTree_buildCodes {s : State} (hf : s.fatal = false) (hi : s.MapInv) (hm : s.map ≠ []) :
    ∃ t, execAll [.buildTree, .buildCodes] s = .next t ∧ t.Coding s.buildTree.codesOfTree [] ∧
      ∀ x ∈ s.keys, s.buildTree.codesOfTree.entry x ≠ none := by
  have hfatal : s.buildTree.succeeded.fatal = false := s.onlyTree_buildTree.fatal.trans hf
  have hsame : s.buildTree.succeeded.SameTree s.buildTree := ⟨rfl, rfl, rfl⟩
  refine ⟨_, (execAll_cons_of_next (exec_buildTree hf hm)).trans (execAll_cons_of_next (exec_buildCodes hfatal)),
    ⟨hfatal, hsame.codesOfTree, rfl⟩, fun x hx => ?_⟩
  obtain ⟨ps, hps, hkeys, -⟩ := codesOfTree_buildTree hi hm
  obtain ⟨⟨y, c⟩, hmem, rfl⟩ := List.mem_map.mp (hkeys.mem_iff.mpr hx)
  exact Option.ne_none_iff_exists'.mpr ⟨c, (hps.entry_iff y c).mpr hmem⟩

/-- Settles O41: the symbols of the input are the keys counted, each of them has a code, and the table is valid. -/
theorem roundTripLaw : Obligations.RoundTripLaw := by
  intro s syms hf hne hlen
  obtain ⟨u, hcount, hfu, hu⟩ := execAll_mapClear_mapCount hf hlen
  have hm : u.map ≠ [] := by
    obtain ⟨x, hx⟩ := List.exists_mem_of_ne_nil syms hne
    exact fun he => by simpa [he] using hu.mem_keys.mpr hx
  obtain ⟨t, hbuild, ht, hcodes⟩ := coding_of_buildTree_buildCodes hfu hu.mapInv hm
  obtain ⟨bits, v, w, hencode, hdecode, herr⟩ :=
    decodeStream_encodeStream ht (valid_codesOfTree (treeInv_buildTree hu.mapInv)) fun x hx => hcodes x (hu.mem_keys.mpr hx)
  exact ⟨t, bits, v, w, (execAll_append_of_next hcount).trans hbuild, hencode, hdecode, herr⟩

end Sys2Proof.Machine
end

section
/-! The control commands (45_control R170, R171): NOP and SOFT_RESET. -/

namespace Sys2Proof.Machine

/-! ## NOP -/

/-- NOP only completes: no check, no effect, so the report of a success alone (60_exceptions R184). -/
theorem exec_nop {s : State} (hf : s.fatal = false) : exec .nop s = .next { s with errCode := .none } :=
  exec_of_check_eq_none hf rfl

/-- Settles O8: NOP checks nothing but the fatal state, and the decoder's first check comes before any opcode. -/
theorem nopOnlyCompletes : Obligations.NopOnlyCompletes :=
  ⟨fun _ => decode_of_words rfl (.inl rfl), lockedWhenFatal (by simp), fun _ _ h => ⟨decode_eq_cmdMustBeZero h, rfl⟩,
    fun _ => exec_nop⟩

/-! ## SOFT_RESET -/

/-- The words of SOFT_RESET are its CMD word with any ARG (45_control R171). -/
theorem decode_eq_softReset_iff {cmd arg : Word} : decode ⟨cmd, arg⟩ = .ok .softReset ↔ cmd = 0x000000FF#32 :=
  ⟨fun h => (words_of_decode h).1, fun h => decode_of_words h (.inl rfl)⟩

/-- SOFT_RESET succeeds in every state, the fatal one too (60_exceptions R187). -/
theorem exec_softReset (s : State) : exec .softReset s = .next s.softReset.succeeded := by
  have hunlocked : ¬(s.fatal = true ∧ Instr.softReset ≠ .softReset) := fun h => h.2 rfl
  rw [exec_eq, if_neg hunlocked]
  rfl

/-- The state SOFT_RESET leaves, by what it keeps of the state before (45_control R171; 70_reset R201). -/
theorem softReset_succeeded (s : State) :
    s.softReset.succeeded =
      { State.reset with
        arg := s.arg, mapIdx := s.mapIdx, pqIdx := s.pqIdx, nodeIdx := s.nodeIdx, ctSym := s.ctSym, pend := s.pend
        resetIn := s.resetIn, host := s.host, sched := s.sched, replies := s.replies, draws := s.draws } := rfl

/-- Settles O25: the decoder by O1, the next state by what SOFT_RESET keeps; PEND_CMD and PEND_ARG are 0 in the model. -/
theorem softResetRestoresTheResetValues : Obligations.SoftResetRestoresTheResetValues :=
  ⟨fun _ _ => decode_eq_softReset_iff, fun s => ⟨0#32, 0#32, by rw [exec_softReset, softReset_succeeded]; rfl⟩⟩

end Sys2Proof.Machine
end

section
/-! The errors of the commands (60_exceptions R180 to R187): which codes a command's checks raise, what an error changes, and the lock of
the fatal state. -/

namespace Sys2Proof.Machine

/-! ## Which codes a command raises -/

/-- A command's checks raise only the codes R181 lists for it. -/
theorem mem_ownErrors_of_check {i : Instr} {s : State} {e : ErrCode} (h : check i s = some e) : e ∈ ownErrors i := by
  cases i
  case mapCount | pqRemoveFirst | pqMergeStep | buildTree | encode =>
    obtain ⟨-, he⟩ := Option.ite_none_right_eq_some.mp h
    cases he
    exact List.mem_cons_self
  case decEnd =>
    obtain ⟨-, he⟩ := Option.ite_none_left_eq_some.mp h
    cases he
    exact List.mem_cons_self
  case pqRemoveAt | pqExtractRoot =>
    simp only [check] at h
    split at h
    · cases h
      exact List.mem_cons_self
    · obtain ⟨-, he⟩ := Option.ite_none_right_eq_some.mp h
      cases he
      exact List.mem_cons_of_mem _ List.mem_cons_self
  all_goals exact nomatch h

/-- EMPTY_INPUT is BUILD_TREE's code, and its only one (60_exceptions R181). -/
theorem eq_emptyInput_iff_of_check {i : Instr} {s : State} {e : ErrCode} (h : check i s = some e) :
    e = .emptyInput ↔ i = .buildTree := by
  have he := mem_ownErrors_of_check h
  constructor
  · rintro rfl
    cases i <;> simp [ownErrors] at he
    rfl
  · rintro rfl
    simpa [ownErrors] using he

/-- The number ERR_CODE reads as (10_state R17). -/
theorem regValue_errCode (s : State) : s.regValue .errCode = s.errCode.number.setWidth 32 := rfl

/-- Settles O29: the three endings of a command, and the numbers of the eleven codes by evaluation. -/
theorem errorCodesOfEachCommand : Obligations.ErrorCodesOfEachCommand := by
  refine ⟨fun i s t h => ?_, fun s e n hs hn => ?_⟩
  · rcases exec_cases h with ⟨hf, hi, rfl⟩ | ⟨hopen, ⟨e, hc, rfl⟩ | ⟨-, rfl⟩⟩
    · exact .inr (.inl ⟨rfl, hi, hf⟩)
    · have he := mem_ownErrors_of_check hc
      rcases hopen with hf | rfl
      · exact .inr (.inr ⟨he, hf⟩)
      · exact absurd he List.not_mem_nil
    · exact .inl rfl
  · subst hs
    rw [regValue_errCode]
    exact (by decide : ∀ p ∈ _, p.1.number.setWidth 32 = p.2) (s.errCode, n) hn

/-! ## What an error changes -/

/-- Settles O28: FATAL_LOCKED and every check but BUILD_TREE's raise on the state before, BUILD_TREE's on the emptied tree; a success has
no code. -/
theorem errorsChangeOnlyTheReport : Obligations.ErrorsChangeOnlyTheReport := by
  intro i s t h hne
  rcases exec_cases h with ⟨-, -, rfl⟩ | ⟨-, ⟨e, hc, rfl⟩ | ⟨-, rfl⟩⟩
  · exact ⟨fun _ => rfl, fun he => nomatch he⟩
  · have hempty := eq_emptyInput_iff_of_check hc
    constructor
    · intro he
      rw [afterError_of_ne_buildTree s (hempty.not.mp he)]
      rfl
    · intro he
      obtain rfl : e = .emptyInput := he
      obtain rfl := hempty.mp rfl
      exact ⟨rfl, raised_of_not_isFatal s.clearTree rfl⟩
  · exact absurd rfl hne

/-! ## The lock of the fatal state -/

/-- The words latched are SOFT_RESET's only when CMD is the exact word 0x000000FF (45_control R171). -/
theorem ne_softReset_of_pendCmd {s : State} {i : Instr} (hw : s.pendCmd ≠ 0x000000FF#32) (hd : decode s.pendWords = .ok i) :
    i ≠ .softReset := by
  rintro rfl
  exact hw (decode_eq_softReset_iff.mp hd)

/-- In the fatal state the check of the lock comes before the decoder's and before the command's own (30_encoding R67; 60_exceptions
R187). -/
theorem complete_of_fatal {s : State} (hf : s.fatal = true) (hw : s.pendCmd ≠ 0x000000FF#32) :
    complete s = .next { s with pend := false, errCode := .fatalLocked, err := true } := by
  cases hd : decode s.pendWords with
  | ok i => rw [complete, hd]; exact lockedWhenFatal (ne_softReset_of_pendCmd hw hd) s.retire hf
  | error e =>
    rw [complete_of_decode_error hd, rejected, guarded_of_fatal (s := s.retire) hf, raised_of_not_isFatal _ rfl]
    rfl

/-- Settles O6: the completion of the pending word in the fatal state. -/
theorem fatalStateLocksEveryOtherWord : Obligations.FatalStateLocksEveryOtherWord := by
  intro s ⟨hturn, hpend, hreset⟩ hf hw
  rw [step_of_completing hturn hpend hreset]
  exact complete_of_fatal (s := s.popSched) hf hw

end Sys2Proof.Machine
end

section
/-! The three sticky flags of STATUS, ERR, OVERRUN and FATAL, through every step: what sets and what clears them (60_exceptions R183, R186,
R188). -/

namespace Sys2Proof.Machine

/-- The flags ERR, OVERRUN and FATAL that are set in `s` are set in `t` (10_state R15). -/
structure State.KeepsFlags (s t : State) : Prop where
  err : s.err = true → t.err = true
  overrun : s.overrun = true → t.overrun = true
  fatal : s.fatal = true → t.fatal = true

theorem State.KeepsFlags.trans {s t u : State} (h : s.KeepsFlags t) (h' : t.KeepsFlags u) : s.KeepsFlags u :=
  ⟨h'.err ∘ h.err, h'.overrun ∘ h.overrun, h'.fatal ∘ h.fatal⟩

/-! ## The flags through a completion -/

theorem State.OnlyTree.flags {s t : State} (h : s.OnlyTree t) : t.err = s.err ∧ t.overrun = s.overrun ∧ t.fatal = s.fatal := by
  rw [h]
  exact ⟨rfl, rfl, rfl⟩

/-- Only SOFT_RESET's effect writes a flag (45_control R171). -/
theorem effect_flags {i : Instr} (s : State) (hr : i ≠ .softReset) :
    (effect i s).err = s.err ∧ (effect i s).overrun = s.overrun ∧ (effect i s).fatal = s.fatal := by
  cases ht : writesTree i with
  | true => exact (effect_onlyTree ht s).flags
  | false =>
    cases i <;> simp [writesTree] at ht hr
    case encode sym => rcases effect_encode_cases sym s with h | ⟨c, h⟩ <;> rw [h] <;> exact ⟨rfl, rfl, rfl⟩
    case decBit b => rcases effect_decBit_cases b s with ⟨sym, h⟩ | ⟨-, h⟩ <;> rw [h] <;> exact ⟨rfl, rfl, rfl⟩
    all_goals exact ⟨rfl, rfl, rfl⟩

theorem afterError_flags (i : Instr) (s : State) :
    (afterError i s).err = s.err ∧ (afterError i s).overrun = s.overrun ∧ (afterError i s).fatal = s.fatal := by
  unfold afterError
  split <;> exact ⟨rfl, rfl, rfl⟩

theorem raised_keepsFlags (s : State) (e : ErrCode) : s.KeepsFlags (s.raised e) :=
  ⟨fun _ => rfl, id, fun h => by simp [h]⟩

theorem exec_keepsFlags {i : Instr} {s t : State} (h : exec i s = .next t) (hr : i ≠ .softReset) : s.KeepsFlags t := by
  rcases exec_cases h with ⟨-, -, rfl⟩ | ⟨-, ⟨e, -, rfl⟩ | ⟨-, rfl⟩⟩
  · exact raised_keepsFlags s _
  · obtain ⟨herr, hover, hfatal⟩ := afterError_flags i s
    exact .trans ⟨herr.trans, hover.trans, hfatal.trans⟩ (raised_keepsFlags _ e)
  · obtain ⟨herr, hover, hfatal⟩ := effect_flags s hr
    exact ⟨herr.trans, hover.trans, hfatal.trans⟩

/-- A completion clears no flag unless the CMD word is SOFT_RESET's (60_exceptions R183, R186, R188). -/
theorem complete_keepsFlags {s t : State} (h : complete s = .next t) (hw : s.pendCmd ≠ 0x000000FF#32) : s.KeepsFlags t := by
  have hretire : s.KeepsFlags s.retire := ⟨id, id, id⟩
  rcases complete_cases h with ⟨i, hd, hi⟩ | ⟨e, -, rfl⟩
  · exact hretire.trans (exec_keepsFlags hi (ne_softReset_of_pendCmd hw hd))
  · exact hretire.trans (raised_keepsFlags _ _)

/-! ## The flags through the host's turn -/

theorem writeCmd_keepsFlags (s : State) (w : Word) : s.KeepsFlags (s.writeCmd w) := by
  unfold State.writeCmd
  split
  · exact ⟨id, fun _ => rfl, id⟩
  · exact ⟨id, id, id⟩

/-- A write to any offset but STATUS's clears no flag (10_state R16; 20_memory R45). -/
theorem busWrite_keepsFlags {off : Offset} (v : Word) (s : State) (h : off ≠ Reg.status.offset) : s.KeepsFlags (busWrite off v s) := by
  have hreg : Reg.ofOffset off ≠ some .status := ofOffset_eq_some_iff.not.mpr h
  unfold busWrite
  split
  case h_1 => exact writeCmd_keepsFlags s v
  case h_3 hstatus => exact absurd hstatus hreg
  all_goals exact ⟨id, id, id⟩

/-- An access clears no flag, or it is a word write to STATUS. -/
theorem busAccess_flags (a : Access) (s : State) :
    s.KeepsFlags (busAccess a s).2 ∨ ∃ v, a = .write .word Reg.status.offset v ∧ (busAccess a s).2 = s.clearSticky v := by
  cases hadm : s.resetIn || !a.wholeWord with
  | true => rw [busAccess_refused hadm]; exact .inl ⟨id, id, id⟩
  | false =>
    cases a with
    | read w off =>
      rw [busAccess_read hadm]
      rcases busRead_state off s with h | ⟨-, h⟩ <;> simp only [h] <;> exact .inl ⟨id, id, id⟩
    | write w off v =>
      rw [busAccess_write hadm]
      by_cases hoff : off = Reg.status.offset
      · have hwhole : (Access.write w off v).wholeWord = true := by simp at hadm; exact hadm.2
        obtain ⟨rfl, -⟩ := (wholeWord_write_iff w off v).mp hwhole
        subst hoff
        exact .inr ⟨v, rfl, busWrite_status v s⟩
      · exact .inl (busWrite_keepsFlags v s hoff)

/-- Of the host's operations only a plain access writes (30_encoding R68). -/
theorem HostOp.eq_access_of_busOp_write {op : HostOp} {w : Width} {off : Offset} {v : Word} (h : op.busOp = .write w off v) :
    op = .access (.write w off v) := by
  cases op with
  | access a => exact congrArg HostOp.access h
  | wait | readSymIfValid | readCode | stopOnError => exact nomatch h

/-- The host's next operation is a write of `v` to STATUS, which 0x010 is the offset of (10_state R16), and `t` has the flags it leaves. -/
def State.ClearsFlagsBy (s t : State) (v : Word) : Prop :=
  (∃ rest, s.host = .access (.write .word 0x010#12 v) :: rest) ∧
    t.err = (s.err && !v.getLsbD 1) ∧ t.overrun = (s.overrun && !v.getLsbD 3) ∧ t.fatal = s.fatal

theorem hostTurn_flags (s : State) : s.KeepsFlags s.hostTurn ∨ ∃ v, s.ClearsFlagsBy s.hostTurn v := by
  cases hh : s.host with
  | nil => rw [hostTurn_nil hh]; exact .inl ⟨id, id, id⟩
  | cons op rest =>
    rw [hostTurn_eq hh]
    rcases busAccess_flags op.busOp s with hk | ⟨v, hop, hv⟩
    · exact .inl (hk.trans ⟨id, id, id⟩)
    · rw [hv]
      exact .inr ⟨v, ⟨rest, by rw [hh, HostOp.eq_access_of_busOp_write hop]; rfl⟩, rfl, rfl, rfl⟩

theorem fatal_hostTurn (s : State) : s.hostTurn.fatal = s.fatal := by
  cases hh : s.host with
  | nil => rw [hostTurn_nil hh]
  | cons op rest => rw [hostTurn_eq hh, busAccess_frame]

/-! ## The flags through a step -/

/-- The three ways a flag is cleared: reset, the completion of 0x000000FF, a write to STATUS (60_exceptions R183, R186, R188). -/
theorem step_flags {s t : State} (h : step s = .next t) :
    s.KeepsFlags t ∨ s.nextTurn = .assertReset ∨ (s.nextTurn = .engine ∧ s.pendCmd = 0x000000FF#32) ∨
      (s.nextTurn = .host ∧ ∃ v, s.ClearsFlagsBy t v) := by
  have hpop : s.KeepsFlags s.popSched := ⟨id, id, id⟩
  rcases step_cases h with ⟨hn, rfl⟩ | ⟨hn, -, hc⟩ | ⟨-, -, rfl⟩ | ⟨hn, -⟩ | ⟨-, rfl⟩
  · rcases hostTurn_flags s.popSched with hk | hclear
    · exact .inl (hpop.trans hk)
    · exact .inr (.inr (.inr ⟨hn, hclear⟩))
  · by_cases hw : s.pendCmd = 0x000000FF#32
    · exact .inr (.inr (.inl ⟨hn, hw⟩))
    · exact .inl (hpop.trans (complete_keepsFlags hc hw))
  · exact .inl hpop
  · exact .inr (.inl hn)
  · exact .inl (hpop.trans ⟨id, id, id⟩)

/-! ## ERR -/

theorem err_of_exec_error {i : Instr} {s t : State} (h : exec i s = .next t) (he : t.errCode ≠ .none) : t.err = true := by
  rcases exec_cases h with ⟨-, -, rfl⟩ | ⟨-, ⟨e, -, rfl⟩ | ⟨-, rfl⟩⟩
  · rfl
  · rfl
  · exact absurd rfl he

/-- Every completion with a code other than 0 sets ERR (60_exceptions R182, R183). -/
theorem err_of_complete_error {s t : State} (h : complete s = .next t) (he : t.errCode ≠ .none) : t.err = true := by
  rcases complete_cases h with ⟨i, -, hi⟩ | ⟨e, -, rfl⟩
  · exact err_of_exec_error hi he
  · rfl

/-- Settles O30: a completion with an error raises ERR; a step clears it in one of a flag's three ways. -/
theorem errIsSticky : Obligations.ErrIsSticky := by
  refine ⟨fun s t ⟨hturn, hpend, hreset⟩ h he => ?_, fun s t h hs ht => ?_⟩
  · exact err_of_complete_error (step_of_completing hturn hpend hreset ▸ h) he
  · rcases step_flags h with hk | hr | hw | ⟨hn, v, ⟨rest, hhost⟩, herr, -, -⟩
    · exact absurd (hk.err hs) (by simp [ht])
    · exact .inl hr
    · exact .inr (.inl hw)
    · exact .inr (.inr ⟨hn, v, rest, hhost, by simpa [hs, ht] using herr⟩)

/-! ## FATAL -/

/-- UNDERFLOW_VIOLATION is the one code that makes the engine fatal (60_exceptions R186). -/
theorem isFatal_iff {e : ErrCode} : e.isFatal = true ↔ e = .underflowViolation := beq_iff_eq

theorem underflow_of_exec_enters_fatal {i : Instr} {s t : State} (h : exec i s = .next t) (hs : s.fatal = false) (ht : t.fatal = true) :
    t.errCode = .underflowViolation := by
  rcases exec_cases h with ⟨hf, -, -⟩ | ⟨-, ⟨e, -, rfl⟩ | ⟨-, rfl⟩⟩
  · simp [hs] at hf
  · obtain ⟨-, -, hfatal⟩ := afterError_flags i s
    exact isFatal_iff.mp (by simpa [hfatal, hs] using ht)
  · by_cases hr : i = .softReset
    · subst hr
      exact Bool.noConfusion ht
    · obtain ⟨-, -, hfatal⟩ := effect_flags s hr
      simp [hfatal, hs] at ht

/-- Words that are no command never make the engine fatal (60_exceptions R181). -/
theorem underflow_of_complete_enters_fatal {s t : State} (h : complete s = .next t) (hs : s.fatal = false) (ht : t.fatal = true) :
    t.errCode = .underflowViolation := by
  rcases complete_cases h with ⟨i, -, hi⟩ | ⟨e, -, rfl⟩
  · exact underflow_of_exec_enters_fatal hi hs ht
  · cases e <;> simp [hs, errorOf, ErrCode.isFatal] at ht

/-- Settles O31: FATAL is cleared in two of a flag's three ways, a write to STATUS leaving it alone; only a completion sets it. -/
theorem fatalIsLeftOnlyByReset : Obligations.FatalIsLeftOnlyByReset := by
  refine ⟨fun s t h hs ht => ?_, fun s t h hs ht => ?_⟩
  · rcases step_flags h with hk | hr | hw | ⟨-, v, -, -, -, hfatal⟩
    · exact absurd (hk.fatal hs) (by simp [ht])
    · exact .inl hr
    · exact .inr hw
    · simp [hs, ht] at hfatal
  · rcases step_cases h with ⟨-, rfl⟩ | ⟨hn, he, hc⟩ | ⟨-, -, rfl⟩ | ⟨-, rfl⟩ | ⟨-, rfl⟩
    · simp [fatal_hostTurn, hs] at ht
    · obtain ⟨hpend, hreset⟩ : s.pend = true ∧ s.resetIn = false := by simpa [State.engineEnabled] using he
      exact ⟨⟨hn, hpend, hreset⟩, underflow_of_complete_enters_fatal hc hs ht⟩
    · simp [hs] at ht
    · exact Bool.noConfusion ht
    · exact absurd (hs.symm.trans ht) Bool.false_ne_true

/-! ## OVERRUN -/

theorem busWrite_cmd (v : Word) (s : State) : busWrite Reg.cmd.offset v s = s.writeCmd v := by
  simp [busWrite, ofOffset_offset]

/-- A write to CMD while a command runs is discarded and sets OVERRUN (60_exceptions R188). -/
theorem writeCmd_of_busy {s : State} (h : s.pend = true) (w : Word) : s.writeCmd w = { s with overrun := true } := if_pos h

/-- Settles O52: the write by what CMD's register does while busy; a step clears OVERRUN in one of a flag's three ways. -/
theorem cmdWriteWhileBusyOverruns : Obligations.CmdWriteWhileBusyOverruns := by
  refine ⟨fun s w hr hb => ?_, fun s t h hs ht => ?_⟩
  · rw [← writeCmd_of_busy hb w, ← busWrite_cmd]
    exact busAccess_write_reg .cmd w hr
  · rcases step_flags h with hk | hr | hw | ⟨hn, v, ⟨rest, hhost⟩, -, hover, -⟩
    · exact absurd (hk.overrun hs) (by simp [ht])
    · exact .inl hr
    · exact .inr (.inl hw)
    · exact .inr (.inr ⟨hn, v, rest, hhost, by simpa [hs, ht] using hover⟩)

end Sys2Proof.Machine
end

section
/-! The outputs of one stage under the commands of the others (70_reset R216; 10_state R37): CT, MAP with TOTAL, and the tree each have
their own writers. -/

namespace Sys2Proof.Machine

theorem exec_ct {i : Instr} {s t : State} (h : exec i s = .next t) (hb : i ≠ .buildCodes) (hr : i ≠ .softReset) : t.ct = s.ct := by
  rcases exec_containers h with hst | hst | ⟨-, hst⟩
  · exact hst.ct
  · exact hst.ct
  · exact hst.ct.trans (effect_ct s hb hr)

theorem exec_map {i : Instr} {s t : State} (h : exec i s = .next t) (hn : ∀ x, i ≠ .mapCount x) (hc : i ≠ .mapClear)
    (hr : i ≠ .softReset) : t.map = s.map ∧ t.total = s.total := by
  rcases exec_containers h with hst | hst | ⟨-, hst⟩
  · exact ⟨hst.map, hst.total⟩
  · exact ⟨hst.map, hst.total⟩
  · obtain ⟨hmap, htotal⟩ := effect_map s hc hn hr
    exact ⟨hst.map.trans hmap, hst.total.trans htotal⟩

theorem exec_tree {i : Instr} {s t : State} (h : exec i s = .next t) (ht : writesTree i = false) (hr : i ≠ .softReset) :
    t.list = s.list ∧ t.nodes = s.nodes ∧ t.root = s.root := by
  have hb : i ≠ .buildTree := by
    rintro rfl
    exact Bool.noConfusion ht
  rcases exec_cases h with ⟨-, -, rfl⟩ | ⟨-, ⟨e, -, rfl⟩ | ⟨-, rfl⟩⟩
  · exact ⟨rfl, rfl, rfl⟩
  · rw [afterError_of_ne_buildTree s hb]
    exact ⟨rfl, rfl, rfl⟩
  · exact effect_tree s ht hr

/-- The map, code table, codec and NOP commands are none of the list and tree commands (70_reset R216). -/
theorem writesTree_eq_false {i : Instr}
    (h : i ∈ [.nop, .mapClear, .buildCodes, .decEnd, .decClear] ∨ (∃ x, i = .mapCount x ∨ i = .encode x) ∨ ∃ b, i = .decBit b) :
    writesTree i = false := by
  rcases h with h | ⟨x, rfl | rfl⟩ | ⟨b, rfl⟩
  · exact (by decide : ∀ j ∈ _, writesTree j = false) i h
  all_goals rfl

/-- Settles O32: each container by its writers, whichever way the command ends. -/
theorem noCommandInvalidatesAnotherStage : Obligations.NoCommandInvalidatesAnotherStage := by
  intro i s t h hr
  refine ⟨fun hb => exec_ct h hb hr, fun hn hc => exec_map h hn hc hr, fun hi => exec_tree h (writesTree_eq_false hi) hr, ?_⟩
  rintro rfl hf
  obtain rfl := Host.Outcome.next.inj ((exec_buildCodes hf).symm.trans h)
  rfl

end Sys2Proof.Machine
end

section
/-! One step by whose turn it is (20_memory R47; 70_reset R200, R211), as equations. -/

namespace Sys2Proof.Machine

theorem step_of_host {s : State} (h : s.nextTurn = .host) : step s = .next s.popSched.hostTurn := by
  rw [step, h, takeTurn]

/-- An engine without a step enabled does nothing (log entry 13). -/
theorem step_of_engine_disabled {s : State} (h : s.nextTurn = .engine) (he : s.engineEnabled = false) : step s = .next s.popSched := by
  have he' : ¬s.popSched.engineEnabled = true := ne_true_of_eq_false he
  rw [step, h, takeTurn, if_neg he']

theorem step_of_assertReset {s : State} (h : s.nextTurn = .assertReset) : step s = .next s.popSched.assertReset := by
  rw [step, h, takeTurn]

theorem step_of_releaseReset {s : State} (h : s.nextTurn = .releaseReset) : step s = .next s.popSched.releaseReset := by
  rw [step, h, takeTurn]

/-- The engine runs the command its latched words decode to (70_reset R211). -/
theorem step_of_decode_ok {s : State} {i : Instr} (hc : s.Completing) (hd : decode s.pendWords = .ok i) :
    step s = exec i s.popSched.retire := by
  obtain ⟨hturn, hpend, hreset⟩ := hc
  have hd' : decode s.popSched.pendWords = .ok i := hd
  rw [step_of_completing hturn hpend hreset, complete, hd']

/-- The host makes its next access (20_memory R47). -/
theorem step_of_access {s : State} {a : Access} {rest : List HostOp} (hn : s.nextTurn = .host) (hh : s.host = .access a :: rest) :
    step s = .next { (busAccess a s.popSched).2 with host := rest, replies := s.replies ++ [(busAccess a s.popSched).1] } := by
  rw [step_of_host hn, hostTurn_eq (s := s.popSched) hh]
  rfl

/-- STATUS.BUSY is PEND (10_state R15, R39). -/
theorem getLsbD_zero_statusWord (s : State) : (statusWord s).getLsbD 0 = s.pend := by
  simp only [getLsbD_statusWord, getLsbD_bitAt]
  simp

/-- WAIT reads STATUS and stays while BUSY = 1 (30_encoding R68). -/
theorem step_of_wait {s : State} {rest : List HostOp} (hn : s.nextTurn = .host) (hr : s.resetIn = false) (hh : s.host = .wait :: rest) :
    step s = .next { s with
      sched := s.sched.tail
      host := if s.pend then .wait :: rest else rest
      replies := s.replies ++ [.data (s.regValue .status)] } := by
  have hread : busAccess HostOp.wait.busOp s.popSched = (.data (statusWord s), s.popSched) :=
    busAccess_read_reg (r := .status) hr (.inr rfl)
  rw [step_of_host hn, hostTurn_eq (s := s.popSched) hh, hread, HostOp.after, getLsbD_zero_statusWord]
  rfl

/-- Settles O7: the engine's turn with and without a command, the host's turn by its next operation. -/
theorem stepRunsThePendingCommand : Obligations.StepRunsThePendingCommand := by
  refine ⟨fun s i => step_of_decode_ok, fun s hn hp => ?_, fun s a rest => step_of_access, fun s rest => step_of_wait,
    fun s hn hh => ?_⟩
  · exact step_of_engine_disabled hn (by simp [State.engineEnabled, hp])
  · rw [step_of_host hn, hostTurn_nil (s := s.popSched) hh]
    rfl

/-- Settles O58: the two edges, the refused access, and an engine that reset disables. -/
theorem resetInputHoldsTheResetState : Obligations.ResetInputHoldsTheResetState := by
  refine ⟨fun s => step_of_assertReset, fun s a hr => busAccess_refused (by simp [hr]), fun s hr hn => ?_,
    fun s => step_of_releaseReset⟩
  exact step_of_engine_disabled hn (by simp [State.engineEnabled, hr])

end Sys2Proof.Machine
end

section
/-! The state after reset (70_reset R201): what it reads as, and the base case of the machine's invariant. -/

namespace Sys2Proof.Machine

/-- Settles O45: the base cases of the invariants whose steps O43 and O44 are about, and a reset input that is released. -/
theorem resetMeetsTheInvariant : Obligations.ResetMeetsTheInvariant := by
  obtain ⟨hmap, htree, hfit⟩ := buildInv_containerInvariant.reset
  exact ⟨hmap, htree, tableInv_containerInvariant.reset, hfit, resetInv_of_released rfl⟩

theorem CodeTable.validCount_empty : CodeTable.empty.validCount = 0 := by
  have hnil : empty.codes = [] := List.eq_nil_iff_forall_not_mem.mpr fun c hc => by simp [mem_codes] at hc
  rw [validCount_eq_length_codes, hnil, List.length_nil]

theorem wordOf_zero (k : Fin 8) : wordOf 0#256 k = 0#32 := by
  simp [wordOf]

/-- The registers but ID and PARAMS read 0 (70_reset R201): the windows select nothing, CT has no valid entry, and the rest are fields. -/
theorem regValue_reset {r : Reg} (hid : r ≠ .id) (hparams : r ≠ .params) : State.reset.regValue r = 0#32 := by
  cases r
  case id => exact absurd rfl hid
  case params => exact absurd rfl hparams
  case ctCount => exact congrArg nineBits CodeTable.validCount_empty
  case ctInfo => exact (code_window_of_none (s := State.reset) (CodeTable.entry_empty _)).1
  case ctCode k =>
    rw [State.regValue, (code_window_of_none (s := State.reset) (CodeTable.entry_empty _)).2]
    exact wordOf_zero k
  case resCode k | candBits k => exact wordOf_zero k
  all_goals rfl

/-- Settles O57: the registers' values, the rest by State.reset itself. -/
theorem resetValues : Obligations.ResetValues :=
  ⟨⟨rfl, rfl, fun _ => regValue_reset⟩, rfl, rfl, rfl, rfl, CodeTable.entry_empty, rfl, rfl, rfl, rfl, rfl⟩

end Sys2Proof.Machine
end

section
/-! CMD writes that issue a command, and reads while it runs (70_reset R210, R212). -/

namespace Sys2Proof.Machine

theorem writeCmd_of_idle {s : State} (h : s.pend = false) (w : Word) :
    s.writeCmd w = { s with pend := true, pendCmd := w, pendArg := s.arg } :=
  if_neg (ne_true_of_eq_false h)

theorem busAccess_writeCmd {s : State} (hr : s.resetIn = false) (w : Word) :
    busAccess (writeAccess .cmd w) s = (.written, s.writeCmd w) := by
  rw [writeAccess, busAccess_write_reg .cmd w hr, busWrite_cmd]

/-- Settles O51: the write's effect on CMD while no command is pending. -/
theorem cmdWriteIssuesACommand : Obligations.CmdWriteIssuesACommand := by
  intro s w hr hp
  rw [← writeCmd_of_idle hp]
  exact busAccess_writeCmd hr w

/-- The nine registers R212 defines while a command runs. -/
theorem definedWhileBusy_iff (r : Reg) :
    r.definedWhileBusy = true ↔
      r ∈ [Reg.id, Reg.params, Reg.arg, Reg.status, Reg.mapIdx, Reg.pqIdx, Reg.nodeIdx, Reg.ctSym, Reg.cmd] := by
  cases r <;> simp [Reg.definedWhileBusy]

/-- A read of any other register while a command runs draws the next free value (70_reset R212; log entry 3). -/
theorem busAccess_read_undefined {s : State} {r : Reg} (hr : s.resetIn = false) (hp : s.pend = true)
    (hd : ¬r.definedWhileBusy = true) :
    busAccess (.read .word r.offset) s = (.data (Config.freeWord s.draws), { s with draws := s.draws + 1 }) := by
  rw [busAccess_read (by simp [hr, Access.wholeWord, wholeWord_offset])]
  simp [busRead, ofOffset_offset, hp, hd]

/-- Settles O53: a defined read and a free draw, by whether the register is one of the nine. -/
theorem readsWhileBusy : Obligations.ReadsWhileBusy := fun _ r hr hp =>
  ⟨fun h => busAccess_read_reg hr (.inr ((definedWhileBusy_iff r).mpr h)),
    fun h => busAccess_read_undefined hr hp ((definedWhileBusy_iff r).not.mpr h)⟩

end Sys2Proof.Machine
end

section
/-! Runs: a pending command completes (70_reset R219), and two CMD writes with no WAIT between (70_reset R210, R213). -/

namespace Sys2Proof.Machine

theorem run_succ_of_step {s t : State} (h : step s = .next t) (k : Nat) :
    Host.Core.run Sys2Proof.core (k + 1) s = Host.Core.run Sys2Proof.core k t := by
  have hstep : Sys2Proof.core.step s = .next t := h
  simp only [Host.Core.run, hstep]

/-! ## A pending command completes -/

/-- Every completion answers a next state with PEND = 0 (70_reset R211, R219). -/
theorem complete_clears_pend (s : State) : ∃ t, complete s = .next t ∧ t.pend = false := by
  cases hd : decode s.pendWords with
  | ok i =>
    obtain ⟨t, ht⟩ := exec_answers_next i s.retire
    exact ⟨t, by simp only [complete, hd, ht], (exec_sameHostSide ht).pend⟩
  | error e =>
    rw [complete_of_decode_error hd, rejected]
    cases hf : s.retire.fatal with
    | true => exact ⟨_, guarded_of_fatal hf _, rfl⟩
    | false => exact ⟨_, guarded_of_not_fatal hf _, rfl⟩

/-- No access withdraws a pending command (60_exceptions R188). -/
theorem pend_busAccess {s : State} (h : s.pend = true) (a : Access) : (busAccess a s).2.pend = true := by
  cases hadm : s.resetIn || !a.wholeWord with
  | true => rwa [busAccess_refused hadm]
  | false =>
    cases a with
    | read w off =>
      rw [busAccess_read hadm]
      rcases busRead_state off s with hs | ⟨-, hs⟩ <;> simpa only [hs] using h
    | write w off v =>
      rw [busAccess_write hadm]
      rcases busWrite_cases off v s with hs | hs | hs | hs | hs | hs | hs | hs <;> rw [hs]
      case inr.inl => rw [writeCmd_of_busy h]; exact h
      all_goals exact h

/-- While a command is pending the host's turn leaves it pending, and the schedule as it is. -/
theorem hostTurn_of_busy {s : State} (h : s.pend = true) : s.hostTurn.pend = true ∧ s.hostTurn.sched = s.sched := by
  cases hh : s.host with
  | nil => rw [hostTurn_nil hh]; exact ⟨h, rfl⟩
  | cons op rest =>
    rw [hostTurn_eq hh]
    exact ⟨pend_busAccess h _, by rw [busAccess_frame]⟩

/-- PEND falls within some number of steps. -/
def State.PendFallsWithin (s : State) (n : Nat) : Prop :=
  ∃ k t, k ≤ n ∧ Host.Core.run Sys2Proof.core k s = .next t ∧ t.pend = false

theorem State.PendFallsWithin.of_step {s t : State} {n : Nat} (h : step s = .next t) (ht : t.PendFallsWithin n) :
    s.PendFallsWithin (n + 1) := by
  obtain ⟨k, u, hk, hrun, hu⟩ := ht
  exact ⟨k + 1, u, Nat.succ_le_succ hk, (run_succ_of_step h k).trans hrun, hu⟩

/-- Where the engine completes next, one step is enough (70_reset R211). -/
theorem State.Completing.pendFallsWithin {s : State} (h : s.Completing) (n : Nat) : s.PendFallsWithin (n + 1) := by
  obtain ⟨hturn, hpend, hreset⟩ := h
  obtain ⟨t, ht, hp⟩ := complete_clears_pend s.popSched
  exact .of_step ((step_of_completing hturn hpend hreset).trans ht) ⟨0, t, Nat.zero_le n, rfl, hp⟩

/-- By induction over the schedule: the engine's turn completes the command, and until then the host and a release of reset keep it
pending. -/
theorem pendFallsWithin_of_sched {sched : List Turn} {s : State} (hs : s.sched = sched) (hp : s.pend = true) (hr : s.resetIn = false)
    (ha : .assertReset ∉ sched) : s.PendFallsWithin (sched.length + 1) := by
  induction sched generalizing s with
  | nil =>
    have hturn : s.nextTurn = .engine := by simp [State.nextTurn, State.engineEnabled, hs, hp, hr]
    exact State.Completing.pendFallsWithin ⟨hturn, hp, hr⟩ 0
  | cons turn rest ih =>
    obtain ⟨hne, hrest⟩ := List.ne_and_not_mem_of_not_mem_cons ha
    have hturn := nextTurn_of_sched hs
    have hpop : s.popSched.sched = rest := by simp [hs]
    cases turn with
    | host =>
      obtain ⟨hp', hs'⟩ := hostTurn_of_busy (s := s.popSched) hp
      exact .of_step (step_of_host hturn) (ih (hs'.trans hpop) hp' ((resetIn_hostTurn _).trans hr) hrest)
    | engine => exact State.Completing.pendFallsWithin ⟨hturn, hp, hr⟩ _
    | assertReset => exact absurd rfl hne
    | releaseReset => exact .of_step (step_of_releaseReset hturn) (ih hpop hp rfl hrest)

/-- Settles O59: by induction over the schedule. -/
theorem pendingCommandCompletes : Obligations.PendingCommandCompletes := fun _ hp hr ha =>
  pendFallsWithin_of_sched rfl hp hr ha

/-! ## Two CMD writes with no WAIT between -/

/-- A step in which the host writes CMD (70_reset R210; 60_exceptions R188). -/
theorem step_of_writeCmd {s : State} {w : Word} {rest : List HostOp} (hn : s.nextTurn = .host) (hr : s.resetIn = false)
    (hh : s.host = .access (writeAccess .cmd w) :: rest) :
    step s = .next { s.popSched.writeCmd w with host := rest, replies := s.replies ++ [.written] } := by
  rw [step_of_access hn hh, busAccess_writeCmd (s := s.popSched) hr]

theorem step_of_issue {s : State} {w : Word} {rest : List HostOp} (hn : s.nextTurn = .host) (hr : s.resetIn = false)
    (hp : s.pend = false) (hh : s.host = .access (writeAccess .cmd w) :: rest) :
    step s = .next { s with
      sched := s.sched.tail, host := rest, replies := s.replies ++ [.written], pend := true, pendCmd := w, pendArg := s.arg } := by
  rw [step_of_writeCmd hn hr hh, writeCmd_of_idle (s := s.popSched) hp]
  rfl

theorem step_of_overrun {s : State} {w : Word} {rest : List HostOp} (hn : s.nextTurn = .host) (hr : s.resetIn = false)
    (hp : s.pend = true) (hh : s.host = .access (writeAccess .cmd w) :: rest) :
    step s = .next { s with sched := s.sched.tail, host := rest, replies := s.replies ++ [.written], overrun := true } := by
  rw [step_of_writeCmd hn hr hh, writeCmd_of_busy (s := s.popSched) hp]
  rfl

/-- A pending NOP completes and reports a success (45_control R170). -/
theorem step_of_pending_nop {s : State} (hc : s.Completing) (hf : s.fatal = false) (hw : s.pendCmd = 0#32) :
    step s = .next { s with sched := s.sched.tail, pend := false, errCode := .none } := by
  have hd : decode s.pendWords = .ok .nop := decode_of_words hw (.inl rfl)
  rw [step_of_decode_ok hc hd, exec_nop (s := s.popSched.retire) hf]
  rfl

/-- Settles O60: the second write comes before the first NOP completes, or after. -/
theorem backToBackWritesHaveBothRuns : Obligations.BackToBackWritesHaveBothRuns := by
  intro s rest hr hp hf ho hh
  have hissue (turns : List Turn) := step_of_issue (s := { s with sched := .host :: turns }) rfl hr hp hh
  constructor
  · refine ⟨_, (run_succ_of_step (hissue [.host]) 1).trans
      (run_succ_of_step (step_of_overrun (w := 0#32) (rest := rest) rfl ?_ rfl rfl) 0), rfl, rfl⟩
    exact hr
  · refine ⟨_, (run_succ_of_step (hissue [.engine, .host]) 2).trans
      ((run_succ_of_step (step_of_pending_nop ⟨rfl, rfl, ?_⟩ ?_ rfl) 1).trans
        (run_succ_of_step (step_of_issue (w := 0#32) (rest := rest) rfl ?_ rfl rfl) 0)), ho, rfl, rfl, rfl⟩
    exacts [hr, hf, hr]

end Sys2Proof.Machine
end
